-- ==== Sys2Proof/Word.lean ====
section
/-! DEFINITION. The machine's words: the byte of every bus access and register, and the 16-bit
address (10_state R30–R32, 00_scope R12). -/

namespace Sys2Proof

/-- `u8` of 00_scope R12. -/
abbrev Byte := BitVec 8

/-- `u16` of 00_scope R12: a CPU address, PC, a 16-bit operand. -/
abbrev Word := BitVec 16

end Sys2Proof
end

