-- ==== Sys2Proof/Machine/Bits.lean ====
section
/-! DEFINITION. Bit fields, byte order and extension (00_scope R12–R14, 20_memory R86): the one place
where bytes become words and a bit of a byte is read or written. -/

namespace Sys2Proof.Machine

/-- `(hi8 : lo8)`, the 16-bit value `hi8 * 256 + lo8` (R13). -/
def mkWord (hi lo : Byte) : Word := hi ++ lo

/-- `w >> 8` (R13). -/
def hiByte (w : Word) : Byte := w.extractLsb' 8 8

/-- `w & 0xFF` (R13). -/
def loByte (w : Word) : Byte := w.setWidth 8

/-- `zext_16` (R14). -/
def zext16 (b : Byte) : Word := b.setWidth 16

/-- `sext_16` (R14): two's-complement sign extension. -/
def sext16 (b : Byte) : Word := b.signExtend 16

/-- Whether two addresses lie in different 256-byte pages (40_engine R179). -/
def pageDiffers (a b : Word) : Bool := hiByte a != hiByte b

/-- `r` with bit `i` set to `b`. -/
def withBit (r : Byte) (i : Nat) (b : Bool) : Byte :=
  if b then r ||| (1 : Byte) <<< i else r &&& ~~~((1 : Byte) <<< i)

/-- The one-bit number of a Boolean, as a byte. -/
def bitByte (b : Bool) : Byte := if b then 1 else 0

/-- The one-bit number of a Boolean, as a natural number. -/
def bitNat (b : Bool) : Nat := if b then 1 else 0

end Sys2Proof.Machine
end

