-- ==== Sys2Proof/Syntax.lean ====
section
/-! DEFINITION. The instructions as syntax (30_encoding R140–R147, spec/opcode_table.json).

A documented instruction is one constructor for its mnemonic; its argument is the addressing mode with
the operand, of a type that holds exactly the modes R145 gives the mnemonic. An undocumented name is one
constructor in the same way; where several opcodes of one name share a mode (KIL, the NOP variants, ANC)
the constructor carries the opcode byte, and WellFormed says which bytes are the name's. Every row of the
table is thus exactly one well-formed constructor-and-mode. -/

namespace Sys2Proof

/-- Modes of ADC AND CMP EOR LDA ORA SBC (R145). -/
inductive ReadMode where
  | imm (i : Byte) | zp (z : Byte) | zpx (z : Byte) | abs (w : Word) | abx (w : Word)
  | aby (w : Word) | izx (z : Byte) | izy (z : Byte)
  deriving DecidableEq, Repr

/-- Modes of LDX (R145). -/
inductive LdxMode where
  | imm (i : Byte) | zp (z : Byte) | zpy (z : Byte) | abs (w : Word) | aby (w : Word)
  deriving DecidableEq, Repr

/-- Modes of LDY (R145). -/
inductive LdyMode where
  | imm (i : Byte) | zp (z : Byte) | zpx (z : Byte) | abs (w : Word) | abx (w : Word)
  deriving DecidableEq, Repr

/-- Modes of STA (R145), and of the undocumented SLO RLA SRE RRA DCP ISC (R147, R312). -/
inductive MemMode where
  | zp (z : Byte) | zpx (z : Byte) | abs (w : Word) | abx (w : Word) | aby (w : Word)
  | izx (z : Byte) | izy (z : Byte)
  deriving DecidableEq, Repr

/-- Modes of STX (R145). -/
inductive StxMode where
  | zp (z : Byte) | zpy (z : Byte) | abs (w : Word)
  deriving DecidableEq, Repr

/-- Modes of STY (R145). -/
inductive StyMode where
  | zp (z : Byte) | zpx (z : Byte) | abs (w : Word)
  deriving DecidableEq, Repr

/-- Modes of ASL LSR ROL ROR (R145). -/
inductive ShiftMode where
  | acc | zp (z : Byte) | zpx (z : Byte) | abs (w : Word) | abx (w : Word)
  deriving DecidableEq, Repr

/-- Modes of INC and DEC (R145). -/
inductive IncMode where
  | zp (z : Byte) | zpx (z : Byte) | abs (w : Word) | abx (w : Word)
  deriving DecidableEq, Repr

/-- Modes of CPX and CPY (R145). -/
inductive CpxMode where
  | imm (i : Byte) | zp (z : Byte) | abs (w : Word)
  deriving DecidableEq, Repr

/-- Modes of BIT (R145). -/
inductive BitMode where
  | zp (z : Byte) | abs (w : Word)
  deriving DecidableEq, Repr

/-- Modes of JMP (R145): the target, or the pointer to it. -/
inductive JmpMode where
  | abs (w : Word) | ind (w : Word)
  deriving DecidableEq, Repr

/-- Modes of the undocumented LAX (R312). -/
inductive LaxMode where
  | imm (i : Byte) | zp (z : Byte) | zpy (z : Byte) | abs (w : Word) | aby (w : Word)
  | izx (z : Byte) | izy (z : Byte)
  deriving DecidableEq, Repr

/-- Modes of the undocumented SAX (R312). -/
inductive SaxMode where
  | zp (z : Byte) | zpy (z : Byte) | abs (w : Word) | izx (z : Byte)
  deriving DecidableEq, Repr

/-- Modes of the undocumented AHX (R312). -/
inductive AhxMode where
  | aby (w : Word) | izy (z : Byte)
  deriving DecidableEq, Repr

/-- The operand bytes of an undocumented NOP: none, one, or two (little-endian). -/
inductive Extra where
  | none | byte (b : Byte) | word (w : Word)
  deriving DecidableEq, Repr

/-- The instruction set: 56 documented mnemonics (R145), then the undocumented names (R147). -/
inductive Instr where
  | adc (m : ReadMode)
  | and (m : ReadMode)
  | asl (m : ShiftMode)
  | bcc (o : Byte)
  | bcs (o : Byte)
  | beq (o : Byte)
  | bit (m : BitMode)
  | bmi (o : Byte)
  | bne (o : Byte)
  | bpl (o : Byte)
  | brk
  | bvc (o : Byte)
  | bvs (o : Byte)
  | clc
  | cld
  | cli
  | clv
  | cmp (m : ReadMode)
  | cpx (m : CpxMode)
  | cpy (m : CpxMode)
  | dec (m : IncMode)
  | dex
  | dey
  | eor (m : ReadMode)
  | inc (m : IncMode)
  | inx
  | iny
  | jmp (m : JmpMode)
  | jsr (w : Word)
  | lda (m : ReadMode)
  | ldx (m : LdxMode)
  | ldy (m : LdyMode)
  | lsr (m : ShiftMode)
  | nop
  | ora (m : ReadMode)
  | pha
  | php
  | pla
  | plp
  | rol (m : ShiftMode)
  | ror (m : ShiftMode)
  | rti
  | rts
  | sbc (m : ReadMode)
  | sec
  | sed
  | sei
  | sta (m : MemMode)
  | stx (m : StxMode)
  | sty (m : StyMode)
  | tax
  | tay
  | tsx
  | txa
  | txs
  | tya
  | kil (op : Byte)
  | slo (m : MemMode)
  | rla (m : MemMode)
  | sre (m : MemMode)
  | rra (m : MemMode)
  | dcp (m : MemMode)
  | isc (m : MemMode)
  | sax (m : SaxMode)
  | lax (m : LaxMode)
  | anc (op : Byte) (i : Byte)
  | alr (i : Byte)
  | arr (i : Byte)
  | xaa (i : Byte)
  | axs (i : Byte)
  | ahx (m : AhxMode)
  | shy (w : Word)
  | shx (w : Word)
  | tas (w : Word)
  | las (w : Word)
  | nopU (op : Byte) (e : Extra)
  | sbcU (i : Byte)
  deriving DecidableEq, Repr

end Sys2Proof
end

