-- ==== Sys2Proof/WellFormed.lean ====
section
/-! DEFINITION. Which terms of Instr are instructions of the table: the three undocumented names whose
constructor carries its opcode byte must carry one of their own (30_encoding R147, 47_undocumented R312). -/

namespace Sys2Proof

/-- The 12 KIL values (R147, R313). -/
def kilOpcodes : List Byte :=
  [0x02, 0x12, 0x22, 0x32, 0x42, 0x52, 0x62, 0x72, 0x92, 0xB2, 0xD2, 0xF2]

/-- The two ANC values (R147). -/
def ancOpcodes : List Byte := [0x0B, 0x2B]

/-- The undocumented NOP values without an operand (R147, imp). -/
def nopOpcodes0 : List Byte := [0x1A, 0x3A, 0x5A, 0x7A, 0xDA, 0xFA]

/-- The undocumented NOP values with one operand byte (R147, imm zp zpx). -/
def nopOpcodes1 : List Byte :=
  [0x80, 0x82, 0x89, 0xC2, 0xE2, 0x04, 0x44, 0x64, 0x14, 0x34, 0x54, 0x74, 0xD4, 0xF4]

/-- The undocumented NOP values with two operand bytes (R147, abs abx). -/
def nopOpcodes2 : List Byte := [0x0C, 0x1C, 0x3C, 0x5C, 0x7C, 0xDC, 0xFC]

/-- Whether a NOP variant's opcode takes exactly these operand bytes. -/
def nopOperandFits (op : Byte) : Extra → Bool
  | .none => nopOpcodes0.contains op
  | .byte _ => nopOpcodes1.contains op
  | .word _ => nopOpcodes2.contains op

/-- An instruction of the table. -/
def Instr.wellFormed : Instr → Bool
  | .kil op => kilOpcodes.contains op
  | .anc op _ => ancOpcodes.contains op
  | .nopU op e => nopOperandFits op e
  | _ => true

end Sys2Proof
end

