-- ==== Sys2Proof/Decode.lean ====
section
/-! DEFINITION. Decoding and encoding (30_encoding R140–R147), and the descriptor table of every opcode
(40_engine R173, spec/opcode_table.json). The decoder is written from the opcode map of R144, row by row;
the encoder from the mnemonic lists of R145 and R147. -/

namespace Sys2Proof

open Machine

/-- The 13 addressing modes (R141). -/
inductive Mode where
  | imp | acc | imm | zp | zpx | zpy | rel | abs | abx | aby | ind | izx | izy
  deriving DecidableEq, Repr

/-- How many operand bytes a mode reads after the opcode (R141). BRK's padding byte is not one. -/
def Mode.operandBytes : Mode → Nat
  | .imp | .acc => 0
  | .imm | .zp | .zpx | .zpy | .rel | .izx | .izy => 1
  | .abs | .abx | .aby | .ind => 2

/-- One entry of the descriptor table (R173). -/
structure Desc where
  mode : Mode
  length : Nat
  baseCycles : Nat
  pageCross : Bool
  branch : Bool
  rmw : Bool
  documented : Bool
  deriving DecidableEq, Repr

/-- A documented entry with no bonus and no dummy read. -/
def row (m : Mode) (len cyc : Nat) : Desc := ⟨m, len, cyc, false, false, false, true⟩

/-- A documented entry with the page-cross bonus. -/
def rowX (m : Mode) (len cyc : Nat) : Desc := ⟨m, len, cyc, true, false, false, true⟩

/-- A branch's entry. -/
def rowB (m : Mode) (len cyc : Nat) : Desc := ⟨m, len, cyc, false, true, false, true⟩

/-- A documented read-modify-write entry in a memory mode. -/
def rowM (m : Mode) (len cyc : Nat) : Desc := ⟨m, len, cyc, false, false, true, true⟩

/-- An undocumented entry (47_undocumented R312). -/
def rowU (m : Mode) (len cyc : Nat) : Desc := ⟨m, len, cyc, false, false, false, false⟩

/-- An undocumented entry whose informative page-cross column is 1 (R312). -/
def rowV (m : Mode) (len cyc : Nat) : Desc := ⟨m, len, cyc, true, false, false, false⟩

/-- The descriptors of opcodes 0x00–0x0F. -/
def descRow0 : List Desc :=
  [row .imp 2 7, row .izx 2 6, rowU .imp 1 2, rowU .izx 2 8, rowU .zp 2 3, row .zp 2 3, rowM .zp 2 5,
   rowU .zp 2 5, row .imp 1 3, row .imm 2 2, row .acc 1 2, rowU .imm 2 2, rowU .abs 3 4, row .abs 3 4,
   rowM .abs 3 6, rowU .abs 3 6]

/-- The descriptors of opcodes 0x10–0x1F. -/
def descRow1 : List Desc :=
  [rowB .rel 2 2, rowX .izy 2 5, rowU .imp 1 2, rowU .izy 2 8, rowU .zpx 2 4, row .zpx 2 4, rowM .zpx 2 6,
   rowU .zpx 2 6, row .imp 1 2, rowX .aby 3 4, rowU .imp 1 2, rowU .aby 3 7, rowV .abx 3 4, rowX .abx 3 4,
   rowM .abx 3 7, rowU .abx 3 7]

/-- The descriptors of opcodes 0x20–0x2F. -/
def descRow2 : List Desc :=
  [row .abs 3 6, row .izx 2 6, rowU .imp 1 2, rowU .izx 2 8, row .zp 2 3, row .zp 2 3, rowM .zp 2 5,
   rowU .zp 2 5, row .imp 1 4, row .imm 2 2, row .acc 1 2, rowU .imm 2 2, row .abs 3 4, row .abs 3 4,
   rowM .abs 3 6, rowU .abs 3 6]

/-- The descriptors of opcodes 0x30–0x3F. -/
def descRow3 : List Desc :=
  [rowB .rel 2 2, rowX .izy 2 5, rowU .imp 1 2, rowU .izy 2 8, rowU .zpx 2 4, row .zpx 2 4, rowM .zpx 2 6,
   rowU .zpx 2 6, row .imp 1 2, rowX .aby 3 4, rowU .imp 1 2, rowU .aby 3 7, rowV .abx 3 4, rowX .abx 3 4,
   rowM .abx 3 7, rowU .abx 3 7]

/-- The descriptors of opcodes 0x40–0x4F. -/
def descRow4 : List Desc :=
  [row .imp 1 6, row .izx 2 6, rowU .imp 1 2, rowU .izx 2 8, rowU .zp 2 3, row .zp 2 3, rowM .zp 2 5,
   rowU .zp 2 5, row .imp 1 3, row .imm 2 2, row .acc 1 2, rowU .imm 2 2, row .abs 3 3, row .abs 3 4,
   rowM .abs 3 6, rowU .abs 3 6]

/-- The descriptors of opcodes 0x50–0x5F. -/
def descRow5 : List Desc :=
  [rowB .rel 2 2, rowX .izy 2 5, rowU .imp 1 2, rowU .izy 2 8, rowU .zpx 2 4, row .zpx 2 4, rowM .zpx 2 6,
   rowU .zpx 2 6, row .imp 1 2, rowX .aby 3 4, rowU .imp 1 2, rowU .aby 3 7, rowV .abx 3 4, rowX .abx 3 4,
   rowM .abx 3 7, rowU .abx 3 7]

/-- The descriptors of opcodes 0x60–0x6F. -/
def descRow6 : List Desc :=
  [row .imp 1 6, row .izx 2 6, rowU .imp 1 2, rowU .izx 2 8, rowU .zp 2 3, row .zp 2 3, rowM .zp 2 5,
   rowU .zp 2 5, row .imp 1 4, row .imm 2 2, row .acc 1 2, rowU .imm 2 2, row .ind 3 5, row .abs 3 4,
   rowM .abs 3 6, rowU .abs 3 6]

/-- The descriptors of opcodes 0x70–0x7F. -/
def descRow7 : List Desc :=
  [rowB .rel 2 2, rowX .izy 2 5, rowU .imp 1 2, rowU .izy 2 8, rowU .zpx 2 4, row .zpx 2 4, rowM .zpx 2 6,
   rowU .zpx 2 6, row .imp 1 2, rowX .aby 3 4, rowU .imp 1 2, rowU .aby 3 7, rowV .abx 3 4, rowX .abx 3 4,
   rowM .abx 3 7, rowU .abx 3 7]

/-- The descriptors of opcodes 0x80–0x8F. -/
def descRow8 : List Desc :=
  [rowU .imm 2 2, row .izx 2 6, rowU .imm 2 2, rowU .izx 2 6, row .zp 2 3, row .zp 2 3, row .zp 2 3,
   rowU .zp 2 3, row .imp 1 2, rowU .imm 2 2, row .imp 1 2, rowU .imm 2 2, row .abs 3 4, row .abs 3 4,
   row .abs 3 4, rowU .abs 3 4]

/-- The descriptors of opcodes 0x90–0x9F. -/
def descRow9 : List Desc :=
  [rowB .rel 2 2, row .izy 2 6, rowU .imp 1 2, rowU .izy 2 6, row .zpx 2 4, row .zpx 2 4, row .zpy 2 4,
   rowU .zpy 2 4, row .imp 1 2, row .aby 3 5, row .imp 1 2, rowU .aby 3 5, rowU .abx 3 5, row .abx 3 5,
   rowU .aby 3 5, rowU .aby 3 5]

/-- The descriptors of opcodes 0xA0–0xAF. -/
def descRowA : List Desc :=
  [row .imm 2 2, row .izx 2 6, row .imm 2 2, rowU .izx 2 6, row .zp 2 3, row .zp 2 3, row .zp 2 3,
   rowU .zp 2 3, row .imp 1 2, row .imm 2 2, row .imp 1 2, rowU .imm 2 2, row .abs 3 4, row .abs 3 4,
   row .abs 3 4, rowU .abs 3 4]

/-- The descriptors of opcodes 0xB0–0xBF. -/
def descRowB : List Desc :=
  [rowB .rel 2 2, rowX .izy 2 5, rowU .imp 1 2, rowV .izy 2 5, row .zpx 2 4, row .zpx 2 4, row .zpy 2 4,
   rowU .zpy 2 4, row .imp 1 2, rowX .aby 3 4, row .imp 1 2, rowV .aby 3 4, rowX .abx 3 4, rowX .abx 3 4,
   rowX .aby 3 4, rowV .aby 3 4]

/-- The descriptors of opcodes 0xC0–0xCF. -/
def descRowC : List Desc :=
  [row .imm 2 2, row .izx 2 6, rowU .imm 2 2, rowU .izx 2 8, row .zp 2 3, row .zp 2 3, rowM .zp 2 5,
   rowU .zp 2 5, row .imp 1 2, row .imm 2 2, row .imp 1 2, rowU .imm 2 2, row .abs 3 4, row .abs 3 4,
   rowM .abs 3 6, rowU .abs 3 6]

/-- The descriptors of opcodes 0xD0–0xDF. -/
def descRowD : List Desc :=
  [rowB .rel 2 2, rowX .izy 2 5, rowU .imp 1 2, rowU .izy 2 8, rowU .zpx 2 4, row .zpx 2 4, rowM .zpx 2 6,
   rowU .zpx 2 6, row .imp 1 2, rowX .aby 3 4, rowU .imp 1 2, rowU .aby 3 7, rowV .abx 3 4, rowX .abx 3 4,
   rowM .abx 3 7, rowU .abx 3 7]

/-- The descriptors of opcodes 0xE0–0xEF. -/
def descRowE : List Desc :=
  [row .imm 2 2, row .izx 2 6, rowU .imm 2 2, rowU .izx 2 8, row .zp 2 3, row .zp 2 3, rowM .zp 2 5,
   rowU .zp 2 5, row .imp 1 2, row .imm 2 2, row .imp 1 2, rowU .imm 2 2, row .abs 3 4, row .abs 3 4,
   rowM .abs 3 6, rowU .abs 3 6]

/-- The descriptors of opcodes 0xF0–0xFF. -/
def descRowF : List Desc :=
  [rowB .rel 2 2, rowX .izy 2 5, rowU .imp 1 2, rowU .izy 2 8, rowU .zpx 2 4, row .zpx 2 4, rowM .zpx 2 6,
   rowU .zpx 2 6, row .imp 1 2, rowX .aby 3 4, rowU .imp 1 2, rowU .aby 3 7, rowV .abx 3 4, rowX .abx 3 4,
   rowM .abx 3 7, rowU .abx 3 7]

/-- The descriptor table by high and low nibble (R173). -/
def descTable : List (List Desc) :=
  [descRow0, descRow1, descRow2, descRow3, descRow4, descRow5, descRow6, descRow7,
   descRow8, descRow9, descRowA, descRowB, descRowC, descRowD, descRowE, descRowF]

/-- `DESC[op]`. The table is total, so the defaults are never taken. -/
def desc (op : Byte) : Desc :=
  (descTable.getD (op.toNat / 16) []).getD (op.toNat % 16) (row .imp 1 2)

/-- R144: the instructions of opcodes 0x00–0x0F. -/
def opRow0 (b : Byte) (w : Word) : List Instr :=
  [.brk, .ora (.izx b), .kil 0x02, .slo (.izx b), .nopU 0x04 (.byte b), .ora (.zp b), .asl (.zp b),
   .slo (.zp b), .php, .ora (.imm b), .asl .acc, .anc 0x0B b, .nopU 0x0C (.word w), .ora (.abs w),
   .asl (.abs w), .slo (.abs w)]

/-- R144: the instructions of opcodes 0x10–0x1F. -/
def opRow1 (b : Byte) (w : Word) : List Instr :=
  [.bpl b, .ora (.izy b), .kil 0x12, .slo (.izy b), .nopU 0x14 (.byte b), .ora (.zpx b), .asl (.zpx b),
   .slo (.zpx b), .clc, .ora (.aby w), .nopU 0x1A .none, .slo (.aby w), .nopU 0x1C (.word w), .ora (.abx w),
   .asl (.abx w), .slo (.abx w)]

/-- R144: the instructions of opcodes 0x20–0x2F. -/
def opRow2 (b : Byte) (w : Word) : List Instr :=
  [.jsr w, .and (.izx b), .kil 0x22, .rla (.izx b), .bit (.zp b), .and (.zp b), .rol (.zp b), .rla (.zp b),
   .plp, .and (.imm b), .rol .acc, .anc 0x2B b, .bit (.abs w), .and (.abs w), .rol (.abs w), .rla (.abs w)]

/-- R144: the instructions of opcodes 0x30–0x3F. -/
def opRow3 (b : Byte) (w : Word) : List Instr :=
  [.bmi b, .and (.izy b), .kil 0x32, .rla (.izy b), .nopU 0x34 (.byte b), .and (.zpx b), .rol (.zpx b),
   .rla (.zpx b), .sec, .and (.aby w), .nopU 0x3A .none, .rla (.aby w), .nopU 0x3C (.word w), .and (.abx w),
   .rol (.abx w), .rla (.abx w)]

/-- R144: the instructions of opcodes 0x40–0x4F. -/
def opRow4 (b : Byte) (w : Word) : List Instr :=
  [.rti, .eor (.izx b), .kil 0x42, .sre (.izx b), .nopU 0x44 (.byte b), .eor (.zp b), .lsr (.zp b),
   .sre (.zp b), .pha, .eor (.imm b), .lsr .acc, .alr b, .jmp (.abs w), .eor (.abs w), .lsr (.abs w),
   .sre (.abs w)]

/-- R144: the instructions of opcodes 0x50–0x5F. -/
def opRow5 (b : Byte) (w : Word) : List Instr :=
  [.bvc b, .eor (.izy b), .kil 0x52, .sre (.izy b), .nopU 0x54 (.byte b), .eor (.zpx b), .lsr (.zpx b),
   .sre (.zpx b), .cli, .eor (.aby w), .nopU 0x5A .none, .sre (.aby w), .nopU 0x5C (.word w), .eor (.abx w),
   .lsr (.abx w), .sre (.abx w)]

/-- R144: the instructions of opcodes 0x60–0x6F. -/
def opRow6 (b : Byte) (w : Word) : List Instr :=
  [.rts, .adc (.izx b), .kil 0x62, .rra (.izx b), .nopU 0x64 (.byte b), .adc (.zp b), .ror (.zp b),
   .rra (.zp b), .pla, .adc (.imm b), .ror .acc, .arr b, .jmp (.ind w), .adc (.abs w), .ror (.abs w),
   .rra (.abs w)]

/-- R144: the instructions of opcodes 0x70–0x7F. -/
def opRow7 (b : Byte) (w : Word) : List Instr :=
  [.bvs b, .adc (.izy b), .kil 0x72, .rra (.izy b), .nopU 0x74 (.byte b), .adc (.zpx b), .ror (.zpx b),
   .rra (.zpx b), .sei, .adc (.aby w), .nopU 0x7A .none, .rra (.aby w), .nopU 0x7C (.word w), .adc (.abx w),
   .ror (.abx w), .rra (.abx w)]

/-- R144: the instructions of opcodes 0x80–0x8F. -/
def opRow8 (b : Byte) (w : Word) : List Instr :=
  [.nopU 0x80 (.byte b), .sta (.izx b), .nopU 0x82 (.byte b), .sax (.izx b), .sty (.zp b), .sta (.zp b),
   .stx (.zp b), .sax (.zp b), .dey, .nopU 0x89 (.byte b), .txa, .xaa b, .sty (.abs w), .sta (.abs w),
   .stx (.abs w), .sax (.abs w)]

/-- R144: the instructions of opcodes 0x90–0x9F. -/
def opRow9 (b : Byte) (w : Word) : List Instr :=
  [.bcc b, .sta (.izy b), .kil 0x92, .ahx (.izy b), .sty (.zpx b), .sta (.zpx b), .stx (.zpy b),
   .sax (.zpy b), .tya, .sta (.aby w), .txs, .tas w, .shy w, .sta (.abx w), .shx w, .ahx (.aby w)]

/-- R144: the instructions of opcodes 0xA0–0xAF. -/
def opRowA (b : Byte) (w : Word) : List Instr :=
  [.ldy (.imm b), .lda (.izx b), .ldx (.imm b), .lax (.izx b), .ldy (.zp b), .lda (.zp b), .ldx (.zp b),
   .lax (.zp b), .tay, .lda (.imm b), .tax, .lax (.imm b), .ldy (.abs w), .lda (.abs w), .ldx (.abs w),
   .lax (.abs w)]

/-- R144: the instructions of opcodes 0xB0–0xBF. -/
def opRowB (b : Byte) (w : Word) : List Instr :=
  [.bcs b, .lda (.izy b), .kil 0xB2, .lax (.izy b), .ldy (.zpx b), .lda (.zpx b), .ldx (.zpy b),
   .lax (.zpy b), .clv, .lda (.aby w), .tsx, .las w, .ldy (.abx w), .lda (.abx w), .ldx (.aby w),
   .lax (.aby w)]

/-- R144: the instructions of opcodes 0xC0–0xCF. -/
def opRowC (b : Byte) (w : Word) : List Instr :=
  [.cpy (.imm b), .cmp (.izx b), .nopU 0xC2 (.byte b), .dcp (.izx b), .cpy (.zp b), .cmp (.zp b),
   .dec (.zp b), .dcp (.zp b), .iny, .cmp (.imm b), .dex, .axs b, .cpy (.abs w), .cmp (.abs w),
   .dec (.abs w), .dcp (.abs w)]

/-- R144: the instructions of opcodes 0xD0–0xDF. -/
def opRowD (b : Byte) (w : Word) : List Instr :=
  [.bne b, .cmp (.izy b), .kil 0xD2, .dcp (.izy b), .nopU 0xD4 (.byte b), .cmp (.zpx b), .dec (.zpx b),
   .dcp (.zpx b), .cld, .cmp (.aby w), .nopU 0xDA .none, .dcp (.aby w), .nopU 0xDC (.word w), .cmp (.abx w),
   .dec (.abx w), .dcp (.abx w)]

/-- R144: the instructions of opcodes 0xE0–0xEF. -/
def opRowE (b : Byte) (w : Word) : List Instr :=
  [.cpx (.imm b), .sbc (.izx b), .nopU 0xE2 (.byte b), .isc (.izx b), .cpx (.zp b), .sbc (.zp b),
   .inc (.zp b), .isc (.zp b), .inx, .sbc (.imm b), .nop, .sbcU b, .cpx (.abs w), .sbc (.abs w),
   .inc (.abs w), .isc (.abs w)]

/-- R144: the instructions of opcodes 0xF0–0xFF. -/
def opRowF (b : Byte) (w : Word) : List Instr :=
  [.beq b, .sbc (.izy b), .kil 0xF2, .isc (.izy b), .nopU 0xF4 (.byte b), .sbc (.zpx b), .inc (.zpx b),
   .isc (.zpx b), .sed, .sbc (.aby w), .nopU 0xFA .none, .isc (.aby w), .nopU 0xFC (.word w), .sbc (.abx w),
   .inc (.abx w), .isc (.abx w)]

/-- The opcode map of R144 by high and low nibble; `b` is byte 1, `w` is `(byte2 : byte1)` (R142). -/
def opTable (b : Byte) (w : Word) : List (List Instr) :=
  [opRow0 b w, opRow1 b w, opRow2 b w, opRow3 b w,
   opRow4 b w, opRow5 b w, opRow6 b w, opRow7 b w,
   opRow8 b w, opRow9 b w, opRowA b w, opRowB b w,
   opRowC b w, opRowD b w, opRowE b w, opRowF b w]

/-- The instruction of an opcode byte and its operand bytes (R140–R144); total: every one of the 256
values has an entry (R146). -/
def decodeOp (op b1 b2 : Byte) : Instr :=
  ((opTable b1 (mkWord b2 b1)).getD (op.toNat / 16) []).getD (op.toNat % 16) .nop

/-- Why a byte string is no instruction: only a missing byte, since every opcode value has an entry. -/
inductive DecodeError where
  /-- There is no opcode byte. -/
  | noOpcode
  /-- The operand bytes that opcode `op` takes are missing. -/
  | missingOperand (op : Byte)
  deriving DecidableEq, Repr

/-- The instruction at the head of a byte string and the bytes after it. BRK's padding byte is skipped
unread (R141, 45_control R283). -/
def decode : List Byte → Except DecodeError (Instr × List Byte)
  | [] => .error .noOpcode
  | op :: rest =>
    match (desc op).mode.operandBytes, rest with
    | 0, rest => .ok (decodeOp op 0 0, rest.drop ((desc op).length - 1))
    | 1, b1 :: rest => .ok (decodeOp op b1 0, rest)
    | 2, b1 :: b2 :: rest => .ok (decodeOp op b1 b2, rest)
    | _, _ => .error (.missingOperand op)

/-! ### The encoder -/

/-- The operand bytes of a mode, low byte first (R141, R142). -/
def ReadMode.bytes : ReadMode → List Byte
  | .imm v | .zp v | .zpx v | .izx v | .izy v => [v]
  | .abs v | .abx v | .aby v => [loByte v, hiByte v]

/-- The operand bytes of a mode, low byte first (R141, R142). -/
def LdxMode.bytes : LdxMode → List Byte
  | .imm v | .zp v | .zpy v => [v]
  | .abs v | .aby v => [loByte v, hiByte v]

/-- The operand bytes of a mode, low byte first (R141, R142). -/
def LdyMode.bytes : LdyMode → List Byte
  | .imm v | .zp v | .zpx v => [v]
  | .abs v | .abx v => [loByte v, hiByte v]

/-- The operand bytes of a mode, low byte first (R141, R142). -/
def MemMode.bytes : MemMode → List Byte
  | .zp v | .zpx v | .izx v | .izy v => [v]
  | .abs v | .abx v | .aby v => [loByte v, hiByte v]

/-- The operand bytes of a mode, low byte first (R141, R142). -/
def StxMode.bytes : StxMode → List Byte
  | .zp v | .zpy v => [v]
  | .abs v => [loByte v, hiByte v]

/-- The operand bytes of a mode, low byte first (R141, R142). -/
def StyMode.bytes : StyMode → List Byte
  | .zp v | .zpx v => [v]
  | .abs v => [loByte v, hiByte v]

/-- The operand bytes of a mode, low byte first (R141, R142). -/
def ShiftMode.bytes : ShiftMode → List Byte
  | .acc => []
  | .zp v | .zpx v => [v]
  | .abs v | .abx v => [loByte v, hiByte v]

/-- The operand bytes of a mode, low byte first (R141, R142). -/
def IncMode.bytes : IncMode → List Byte
  | .zp v | .zpx v => [v]
  | .abs v | .abx v => [loByte v, hiByte v]

/-- The operand bytes of a mode, low byte first (R141, R142). -/
def CpxMode.bytes : CpxMode → List Byte
  | .imm v | .zp v => [v]
  | .abs v => [loByte v, hiByte v]

/-- The operand bytes of a mode, low byte first (R141, R142). -/
def BitMode.bytes : BitMode → List Byte
  | .zp v => [v]
  | .abs v => [loByte v, hiByte v]

/-- The operand bytes of a mode, low byte first (R141, R142). -/
def JmpMode.bytes : JmpMode → List Byte
  | .abs v | .ind v => [loByte v, hiByte v]

/-- The operand bytes of a mode, low byte first (R141, R142). -/
def LaxMode.bytes : LaxMode → List Byte
  | .imm v | .zp v | .zpy v | .izx v | .izy v => [v]
  | .abs v | .aby v => [loByte v, hiByte v]

/-- The operand bytes of a mode, low byte first (R141, R142). -/
def SaxMode.bytes : SaxMode → List Byte
  | .zp v | .zpy v | .izx v => [v]
  | .abs v => [loByte v, hiByte v]

/-- The operand bytes of a mode, low byte first (R141, R142). -/
def AhxMode.bytes : AhxMode → List Byte
  | .izy v => [v]
  | .aby v => [loByte v, hiByte v]

/-- The operand bytes of an undocumented NOP. -/
def Extra.bytes : Extra → List Byte
  | .none => []
  | .byte v => [v]
  | .word v => [loByte v, hiByte v]

/-- The opcode byte of an instruction (R145, R147). -/
def Instr.opcode : Instr → Byte
  | .adc (.imm _) => 0x69 | .adc (.zp _) => 0x65 | .adc (.zpx _) => 0x75 | .adc (.abs _) => 0x6D
  | .adc (.abx _) => 0x7D | .adc (.aby _) => 0x79 | .adc (.izx _) => 0x61 | .adc (.izy _) => 0x71
  | .and (.imm _) => 0x29 | .and (.zp _) => 0x25 | .and (.zpx _) => 0x35 | .and (.abs _) => 0x2D
  | .and (.abx _) => 0x3D | .and (.aby _) => 0x39 | .and (.izx _) => 0x21 | .and (.izy _) => 0x31
  | .asl (.acc) => 0x0A | .asl (.zp _) => 0x06 | .asl (.zpx _) => 0x16 | .asl (.abs _) => 0x0E
  | .asl (.abx _) => 0x1E
  | .bcc _ => 0x90
  | .bcs _ => 0xB0
  | .beq _ => 0xF0
  | .bit (.zp _) => 0x24 | .bit (.abs _) => 0x2C
  | .bmi _ => 0x30
  | .bne _ => 0xD0
  | .bpl _ => 0x10
  | .brk => 0x00
  | .bvc _ => 0x50
  | .bvs _ => 0x70
  | .clc => 0x18
  | .cld => 0xD8
  | .cli => 0x58
  | .clv => 0xB8
  | .cmp (.imm _) => 0xC9 | .cmp (.zp _) => 0xC5 | .cmp (.zpx _) => 0xD5 | .cmp (.abs _) => 0xCD
  | .cmp (.abx _) => 0xDD | .cmp (.aby _) => 0xD9 | .cmp (.izx _) => 0xC1 | .cmp (.izy _) => 0xD1
  | .cpx (.imm _) => 0xE0 | .cpx (.zp _) => 0xE4 | .cpx (.abs _) => 0xEC
  | .cpy (.imm _) => 0xC0 | .cpy (.zp _) => 0xC4 | .cpy (.abs _) => 0xCC
  | .dec (.zp _) => 0xC6 | .dec (.zpx _) => 0xD6 | .dec (.abs _) => 0xCE | .dec (.abx _) => 0xDE
  | .dex => 0xCA
  | .dey => 0x88
  | .eor (.imm _) => 0x49 | .eor (.zp _) => 0x45 | .eor (.zpx _) => 0x55 | .eor (.abs _) => 0x4D
  | .eor (.abx _) => 0x5D | .eor (.aby _) => 0x59 | .eor (.izx _) => 0x41 | .eor (.izy _) => 0x51
  | .inc (.zp _) => 0xE6 | .inc (.zpx _) => 0xF6 | .inc (.abs _) => 0xEE | .inc (.abx _) => 0xFE
  | .inx => 0xE8
  | .iny => 0xC8
  | .jmp (.abs _) => 0x4C | .jmp (.ind _) => 0x6C
  | .jsr _ => 0x20
  | .lda (.imm _) => 0xA9 | .lda (.zp _) => 0xA5 | .lda (.zpx _) => 0xB5 | .lda (.abs _) => 0xAD
  | .lda (.abx _) => 0xBD | .lda (.aby _) => 0xB9 | .lda (.izx _) => 0xA1 | .lda (.izy _) => 0xB1
  | .ldx (.imm _) => 0xA2 | .ldx (.zp _) => 0xA6 | .ldx (.zpy _) => 0xB6 | .ldx (.abs _) => 0xAE
  | .ldx (.aby _) => 0xBE
  | .ldy (.imm _) => 0xA0 | .ldy (.zp _) => 0xA4 | .ldy (.zpx _) => 0xB4 | .ldy (.abs _) => 0xAC
  | .ldy (.abx _) => 0xBC
  | .lsr (.acc) => 0x4A | .lsr (.zp _) => 0x46 | .lsr (.zpx _) => 0x56 | .lsr (.abs _) => 0x4E
  | .lsr (.abx _) => 0x5E
  | .nop => 0xEA
  | .ora (.imm _) => 0x09 | .ora (.zp _) => 0x05 | .ora (.zpx _) => 0x15 | .ora (.abs _) => 0x0D
  | .ora (.abx _) => 0x1D | .ora (.aby _) => 0x19 | .ora (.izx _) => 0x01 | .ora (.izy _) => 0x11
  | .pha => 0x48
  | .php => 0x08
  | .pla => 0x68
  | .plp => 0x28
  | .rol (.acc) => 0x2A | .rol (.zp _) => 0x26 | .rol (.zpx _) => 0x36 | .rol (.abs _) => 0x2E
  | .rol (.abx _) => 0x3E
  | .ror (.acc) => 0x6A | .ror (.zp _) => 0x66 | .ror (.zpx _) => 0x76 | .ror (.abs _) => 0x6E
  | .ror (.abx _) => 0x7E
  | .rti => 0x40
  | .rts => 0x60
  | .sbc (.imm _) => 0xE9 | .sbc (.zp _) => 0xE5 | .sbc (.zpx _) => 0xF5 | .sbc (.abs _) => 0xED
  | .sbc (.abx _) => 0xFD | .sbc (.aby _) => 0xF9 | .sbc (.izx _) => 0xE1 | .sbc (.izy _) => 0xF1
  | .sec => 0x38
  | .sed => 0xF8
  | .sei => 0x78
  | .sta (.zp _) => 0x85 | .sta (.zpx _) => 0x95 | .sta (.abs _) => 0x8D | .sta (.abx _) => 0x9D
  | .sta (.aby _) => 0x99 | .sta (.izx _) => 0x81 | .sta (.izy _) => 0x91
  | .stx (.zp _) => 0x86 | .stx (.zpy _) => 0x96 | .stx (.abs _) => 0x8E
  | .sty (.zp _) => 0x84 | .sty (.zpx _) => 0x94 | .sty (.abs _) => 0x8C
  | .tax => 0xAA
  | .tay => 0xA8
  | .tsx => 0xBA
  | .txa => 0x8A
  | .txs => 0x9A
  | .tya => 0x98
  | .kil op => op
  | .slo (.zp _) => 0x07 | .slo (.zpx _) => 0x17 | .slo (.abs _) => 0x0F | .slo (.abx _) => 0x1F
  | .slo (.aby _) => 0x1B | .slo (.izx _) => 0x03 | .slo (.izy _) => 0x13
  | .rla (.zp _) => 0x27 | .rla (.zpx _) => 0x37 | .rla (.abs _) => 0x2F | .rla (.abx _) => 0x3F
  | .rla (.aby _) => 0x3B | .rla (.izx _) => 0x23 | .rla (.izy _) => 0x33
  | .sre (.zp _) => 0x47 | .sre (.zpx _) => 0x57 | .sre (.abs _) => 0x4F | .sre (.abx _) => 0x5F
  | .sre (.aby _) => 0x5B | .sre (.izx _) => 0x43 | .sre (.izy _) => 0x53
  | .rra (.zp _) => 0x67 | .rra (.zpx _) => 0x77 | .rra (.abs _) => 0x6F | .rra (.abx _) => 0x7F
  | .rra (.aby _) => 0x7B | .rra (.izx _) => 0x63 | .rra (.izy _) => 0x73
  | .dcp (.zp _) => 0xC7 | .dcp (.zpx _) => 0xD7 | .dcp (.abs _) => 0xCF | .dcp (.abx _) => 0xDF
  | .dcp (.aby _) => 0xDB | .dcp (.izx _) => 0xC3 | .dcp (.izy _) => 0xD3
  | .isc (.zp _) => 0xE7 | .isc (.zpx _) => 0xF7 | .isc (.abs _) => 0xEF | .isc (.abx _) => 0xFF
  | .isc (.aby _) => 0xFB | .isc (.izx _) => 0xE3 | .isc (.izy _) => 0xF3
  | .sax (.zp _) => 0x87 | .sax (.zpy _) => 0x97 | .sax (.abs _) => 0x8F | .sax (.izx _) => 0x83
  | .lax (.imm _) => 0xAB | .lax (.zp _) => 0xA7 | .lax (.zpy _) => 0xB7 | .lax (.abs _) => 0xAF
  | .lax (.aby _) => 0xBF | .lax (.izx _) => 0xA3 | .lax (.izy _) => 0xB3
  | .anc op _ => op
  | .alr _ => 0x4B
  | .arr _ => 0x6B
  | .xaa _ => 0x8B
  | .axs _ => 0xCB
  | .ahx (.aby _) => 0x9F | .ahx (.izy _) => 0x93
  | .shy _ => 0x9C
  | .shx _ => 0x9E
  | .tas _ => 0x9B
  | .las _ => 0xBB
  | .nopU op _ => op
  | .sbcU _ => 0xEB

/-- The bytes after the opcode. BRK's padding byte is encoded as 0x00 (any value, 93 row 17; log 14). -/
def Instr.operandBytes : Instr → List Byte
  | .adc m => m.bytes
  | .and m => m.bytes
  | .asl m => m.bytes
  | .bcc o => [o]
  | .bcs o => [o]
  | .beq o => [o]
  | .bit m => m.bytes
  | .bmi o => [o]
  | .bne o => [o]
  | .bpl o => [o]
  | .brk => [0x00]
  | .bvc o => [o]
  | .bvs o => [o]
  | .clc => []
  | .cld => []
  | .cli => []
  | .clv => []
  | .cmp m => m.bytes
  | .cpx m => m.bytes
  | .cpy m => m.bytes
  | .dec m => m.bytes
  | .dex => []
  | .dey => []
  | .eor m => m.bytes
  | .inc m => m.bytes
  | .inx => []
  | .iny => []
  | .jmp m => m.bytes
  | .jsr v => [loByte v, hiByte v]
  | .lda m => m.bytes
  | .ldx m => m.bytes
  | .ldy m => m.bytes
  | .lsr m => m.bytes
  | .nop => []
  | .ora m => m.bytes
  | .pha => []
  | .php => []
  | .pla => []
  | .plp => []
  | .rol m => m.bytes
  | .ror m => m.bytes
  | .rti => []
  | .rts => []
  | .sbc m => m.bytes
  | .sec => []
  | .sed => []
  | .sei => []
  | .sta m => m.bytes
  | .stx m => m.bytes
  | .sty m => m.bytes
  | .tax => []
  | .tay => []
  | .tsx => []
  | .txa => []
  | .txs => []
  | .tya => []
  | .kil _ => []
  | .slo m => m.bytes
  | .rla m => m.bytes
  | .sre m => m.bytes
  | .rra m => m.bytes
  | .dcp m => m.bytes
  | .isc m => m.bytes
  | .sax m => m.bytes
  | .lax m => m.bytes
  | .anc _ i => [i]
  | .alr v => [v]
  | .arr v => [v]
  | .xaa v => [v]
  | .axs v => [v]
  | .ahx m => m.bytes
  | .shy v => [loByte v, hiByte v]
  | .shx v => [loByte v, hiByte v]
  | .tas v => [loByte v, hiByte v]
  | .las v => [loByte v, hiByte v]
  | .nopU _ e => e.bytes
  | .sbcU i => [i]

/-- The words of an instruction: its opcode byte and the bytes after it, in address order (R140, R141). -/
def encode (i : Instr) : List Byte := i.opcode :: i.operandBytes

/-- The descriptor of an instruction (R173). -/
def Instr.desc (i : Instr) : Desc := Sys2Proof.desc i.opcode

/-- Byte `k` of an instruction numbered as spec/opcode_table.json numbers its bits: bit 0 is the least
significant bit of the opcode byte, byte 1 is bits 15:8, byte 2 is bits 23:16; bits from `nbits` up are 0. -/
def tableByte (nbits w k : Nat) : Byte := BitVec.ofNat 8 ((w % 2 ^ nbits) / 256 ^ k)

/-- The instruction the decoder reads from the bits `w` of a table row. -/
def decodeTableWord (nbits w : Nat) : Option Instr :=
  match decode [tableByte nbits w 0, tableByte nbits w 1, tableByte nbits w 2] with
  | .ok (i, _) => some i
  | .error _ => none

end Sys2Proof
end

