-- ==== Sys2Proof/Config.lean ====
section
/-! DEFINITION. What an implementation fixes: the named parameters of 00_scope R11, with the spec's
defaults, and the free values the spec leaves OPEN. A free value has no body, so no proof can see
what it is. -/

namespace Sys2Proof

/-- `ILLEGAL_MODE` (R11, 47_undocumented R310, R311). -/
inductive IllegalMode where
  /-- R310: fetching an undocumented opcode sets `refused`. The spec's default. -/
  | refuse
  /-- R311: an undocumented opcode other than KIL is a flagged no-op. -/
  | stubNop
  deriving DecidableEq, Repr

namespace Config

/-- FREE VALUE (OPEN, 92 D7; log 3). `NMI_DELAY_TICKS` is at least 1: it is this number plus 1. -/
opaque nmiDelayBeyondOne : Nat

/-- `NMI_DELAY_TICKS` ≥ 1 (R11, 60_exceptions R435), OPEN. -/
def nmiDelayTicks : Nat := nmiDelayBeyondOne + 1

/-- FREE VALUE (OPEN, 92 D16; log 4). `FOUR_SCREEN_MAP`: the physical table of each quadrant 0–3. -/
opaque fourScreenMap : Vector (Fin 2) 4

/-- FREE VALUE (any value, 92 D29, 93 row 10; log 5). The answer of the `n`-th `INPUT()` call. -/
opaque input : Nat → BitVec 16

end Config

/-- The parameters of 00_scope R11 that a model takes as arguments. They ride in the state, where no
step changes them (log 1). `initialRam` lists the non-zero bytes of `INITIAL_RAM`. -/
structure Params where
  /-- `ILLEGAL_MODE`. -/
  illegalMode : IllegalMode
  /-- `NMI_DELAY_TICKS`. -/
  nmiDelayTicks : Nat
  /-- `FOUR_SCREEN_MAP`. -/
  fourScreenMap : Vector (Fin 2) 4
  /-- `RUN_BUDGET`. -/
  runBudget : Nat
  /-- `INITIAL_RAM`. -/
  initialRam : List (Nat × Byte)
  /-- The scanline of `PPU_RESET_POSITION`. -/
  resetScanline : Nat
  /-- The dot of `PPU_RESET_POSITION`. -/
  resetDot : Nat
  deriving DecidableEq, Repr

/-- The defaults of R11; the two OPEN parameters take their free values. -/
def Params.default : Params where
  illegalMode := .refuse
  nmiDelayTicks := Config.nmiDelayTicks
  fourScreenMap := Config.fourScreenMap
  runBudget := 1
  initialRam := []
  resetScanline := 240
  resetDot := 340

end Sys2Proof
end

