-- ==== Sys2Proof/Machine/State.lean ====
section
/-! DEFINITION. The machine's state (10_state R30–R57) as plain data, what it holds right after
reset (10_state R60), and the reasons a step can stop. -/

namespace Sys2Proof.Machine

/-- A memory: the cells that hold something other than 0x00, by rising address. An unlisted address
reads 0x00 (10_state R60 gives every memory that reset content; log 10). -/
abbrev Mem := List Host.Cell

/-- The canonical form: addresses strictly rising, no listed byte equal to what an unlisted one reads. -/
abbrev Mem.wf (m : Mem) : Prop :=
  m.Pairwise (fun c d => c.1 < d.1) ∧ ∀ c ∈ m, c.2 ≠ 0

/-- `pending`: "{None, NMI, IRQ}" (R41). -/
inductive Pending where
  | none | nmi | irq
  deriving DecidableEq, Repr

/-- The nametable mirroring modes (20_memory R113). -/
inductive Mirroring where
  | horizontal | vertical | single0 | single1 | fourScreen
  deriving DecidableEq, Repr

/-- A loaded cartridge (R57, 52_cartridge R402–R406). -/
structure Cartridge where
  /-- PRG bytes, read-only. -/
  prg : Mem
  /-- PRG size − 1. -/
  prgMask : Nat
  /-- CHR bytes: ROM, or RAM when `chrIsRam`. -/
  chr : Mem
  /-- CHR size − 1. -/
  chrMask : Nat
  chrIsRam : Bool
  mirroring : Mirroring
  mapper : Byte
  deriving DecidableEq, Repr

/-- One active-sprite slot (R51). -/
structure SpriteSlot where
  /-- Eight 4-bit pixels, leftmost in bits 31:28. -/
  pattern : BitVec 32
  x : Byte
  /-- `true` (1): behind the background. -/
  priority : Bool
  /-- The source OAM index, 0–63. -/
  index : Nat
  deriving DecidableEq, Repr

/-- The picture processor (R45–R54). -/
structure Ppu where
  /-- 0–340 (R45). -/
  dot : Nat
  /-- 0–261 (R45). -/
  scanline : Nat
  /-- The frame-parity bit (R45). -/
  odd : Bool
  /-- Current VRAM address (R46). -/
  v : BitVec 15
  /-- Temporary VRAM address (R46). -/
  t : BitVec 15
  /-- `x`, the fine X scroll (R47). -/
  fineX : BitVec 3
  /-- The write toggle (R47). -/
  w : Bool
  /-- `$2000` (R48, 50_ppu R322). -/
  ctrl : Byte
  /-- `$2001` (R48, 50_ppu R324). -/
  mask : Byte
  vblank : Bool
  sprite0Hit : Bool
  spriteOverflow : Bool
  /-- The OAM cursor (R48). -/
  oamAddr : Byte
  /-- The last byte written to any PPU register (R48). -/
  latch : Byte
  /-- The `$2007` read buffer (R48). -/
  readBuffer : Byte
  /-- Sprite memory, 256 bytes (R49). -/
  oam : Mem
  /-- The two nametables: table `k`, offset `o` at key `1024 * k + o` (R49; log 11). -/
  ciram : Mem
  /-- Palette RAM, 32 bytes (R49). -/
  palette : Mem
  ntByte : Byte
  /-- The 2-bit palette number shifted left by 2 (R50). -/
  atBits : BitVec 4
  ptLo : Byte
  ptHi : Byte
  /-- 16 pixels of 4 bits, leftmost in bits 63:60 (R50). -/
  tileData : BitVec 64
  /-- How many slots are active, 0–8 (R51). -/
  sprCount : Nat
  slots : Vector SpriteSlot 8
  /-- The NMI line after its last change (R52). -/
  nmiPrevious : Bool
  /-- Ticks left before a detected edge is delivered; 0: none scheduled (R52). -/
  nmiDelay : Nat
  /-- The value of `cycles` up to which ticks have been replayed (R53). -/
  lastSynced : Nat
  /-- The frame buffer: pixel (`px`, `py`) at key `256 * py + px` (R54; log 11). -/
  frame : Mem
  frameReady : Bool
  /-- MODEL'S OWN: the frames delivered so far, newest first (70_reset R471 (a); log 12). -/
  delivered : List Mem
  deriving DecidableEq, Repr

/-- The controller latch (R56, 52_cartridge R420). -/
structure Pad where
  strobe : Bool
  /-- Bits 7:0 controller 1, bits 15:8 controller 2. -/
  snapshot : BitVec 16
  shift0 : Byte
  shift1 : Byte
  deriving DecidableEq, Repr

/-- Everything the machine holds. The fields after `cart` are the MODEL'S OWN. -/
structure State where
  /-- The accumulator (R30). -/
  a : Byte
  x : Byte
  y : Byte
  /-- The stack pointer; the stack is page 1 (R31). -/
  sp : Byte
  pc : Word
  /-- The status byte: N V U B D I Z C from bit 7 to bit 0 (R33). -/
  p : Byte
  /-- The cycle counter, unbounded (R40). -/
  cycles : Nat
  pending : Pending
  /-- Stall cycles owed for OAM DMA (R42). -/
  stall : Nat
  /-- Set when an opcode without a meaning is fetched; such a state has no further step (R43). -/
  refused : Bool
  /-- Set when an undocumented opcode ran as a stub; never cleared (R44). -/
  stubbed : Bool
  /-- Internal RAM, 2,048 bytes (R55). -/
  ram : Mem
  ppu : Ppu
  pad : Pad
  /-- The loaded cartridge (R57); none before a load (52_cartridge R408). -/
  cart : Option Cartridge
  /-- The parameters of 00_scope R11; no step changes them (log 1). -/
  params : Params
  /-- `IRQ_LINE`: whether a request comes at each coming instruction boundary; past the end of the
  list, none does (60_exceptions R437; log 6). -/
  irqLine : List Bool
  /-- `INPUT` answers already fixed from outside, in order (52_cartridge R423; log 5). -/
  inputs : List (BitVec 16)
  /-- How many `INPUT()` calls there have been (70_reset R471 (b)). -/
  inputCalls : Nat
  /-- `start` of the open `run` call, none between two calls (70_reset R466; log 9). -/
  runStart : Option Nat
  deriving DecidableEq, Repr

/-- Why the machine stops with a fault. -/
inductive Fault where
  /-- Raised by `step`, `run`, `runFrame` and `State.resetOp` in a state without a loaded cartridge, where
  the spec gives no step: "reset ... and run ... have no step" (52_cartridge R408). Safe: the machine stops
  where the spec's machine has no step either. -/
  | noCartridge
  /-- What the loops of `run` and `runFrame` would answer where the bound on their recursion ran out. They
  never do: `run_ends` and `runFrame_ends` (Laws/Run.lean) prove that the bounds are enough (log 16). Safe:
  a stop, never a state the spec's loops would not reach. -/
  | loopBound
  deriving DecidableEq, Repr

/-- Why a step is refused. -/
inductive Refusal where
  /-- Raised by `exec` for an instruction without a meaning; no arm of exec raises it now. Safe. -/
  | notModelled (mnemonic : String)
  /-- Raised by `step` in a state whose `refused` mark is set: "A state with `refused` set has no
  further step" (10_state R43). Safe: nothing is proved past an opcode without a meaning. -/
  | alreadyRefused
  /-- Raised by `run`, `runFrame`, `State.resetOp` and `State.loadImage` in a state whose `run` call is still
  open (`runStart`): "Re-entrant calls on one instance are unsupported" (70_reset R463); 93 row 8 has the model
  refuse them (log 18). Safe: nothing is claimed of an operation started inside another. -/
  | reentrantCall
  deriving DecidableEq, Repr

/-- An empty sprite slot (R60: "spr_count and all slots 0"). -/
def SpriteSlot.empty : SpriteSlot where
  pattern := 0
  x := 0
  priority := false
  index := 0

/-- The picture processor after reset (R60; the spec's choices D25, D23) at the default
`PPU_RESET_POSITION`. -/
def Ppu.reset : Ppu where
  dot := 340
  scanline := 240
  odd := false
  v := 0
  t := 0
  fineX := 0
  w := false
  ctrl := 0
  mask := 0
  vblank := false
  sprite0Hit := false
  spriteOverflow := false
  oamAddr := 0
  latch := 0
  readBuffer := 0
  oam := []
  ciram := []
  palette := []
  ntByte := 0
  atBits := 0
  ptLo := 0
  ptHi := 0
  tileData := 0
  sprCount := 0
  slots := Vector.replicate 8 SpriteSlot.empty
  nmiPrevious := false
  nmiDelay := 0
  lastSynced := 0
  frame := []
  frameReady := false
  delivered := []

/-- The controller latch after reset (R60, D29). -/
def Pad.reset : Pad where
  strobe := false
  snapshot := 0
  shift0 := 0
  shift1 := 0

/-- The machine right after reset (R60), as `initialize` creates it: "creates the state; no cartridge"
(70_reset R463). PC is the word at 0xFFFC of the loaded cartridge; with none it is DESIGN CHOICE 0x0000
(log 7), and `State.resetOp` gives the spec's value once a cartridge is loaded. -/
def State.reset : State where
  a := 0
  x := 0
  y := 0
  sp := 0xFD
  pc := 0
  p := 0x24
  cycles := 0
  pending := .none
  stall := 0
  refused := false
  stubbed := false
  ram := []
  ppu := Ppu.reset
  pad := Pad.reset
  cart := none
  params := Params.default
  irqLine := []
  inputs := []
  inputCalls := 0
  runStart := none

end Sys2Proof.Machine
end

