-- ==== Sys2Proof/Machine/Mem.lean ====
section
/-! DEFINITION. Reading and writing one byte of a memory held as a canonical list of cells (log 10). -/

namespace Sys2Proof.Machine

/-- The byte at an address; 0x00 where no cell is listed. -/
def Mem.read : Mem → Nat → Byte
  | [], _ => 0
  | (k, b) :: m, a => if k = a then b else Mem.read m a

/-- The memory without the cell at `a`. -/
def Mem.erase (m : Mem) (a : Nat) : Mem := m.filter (fun c => c.1 != a)

/-- The memory with a cell put before the first cell of a higher address. -/
def Mem.insert : Mem → Nat → Byte → Mem
  | [], a, v => [(a, v)]
  | c :: m, a, v => if a < c.1 then (a, v) :: c :: m else c :: Mem.insert m a v

/-- The memory after a write of one byte; writing 0x00 removes the cell, so that equal memories are
equal lists. -/
def Mem.write (m : Mem) (a : Nat) (v : Byte) : Mem :=
  if v = 0 then m.erase a else (m.erase a).insert a v

/-- The memory that holds a byte string from address `k` up. -/
def Mem.ofBytes : Nat → List Byte → Mem
  | _, [] => []
  | k, b :: bs => if b = 0 then Mem.ofBytes (k + 1) bs else (k, b) :: Mem.ofBytes (k + 1) bs

/-- The canonical memory of `size` bytes that holds the given cells, later ones winning. -/
def Mem.ofCells (size : Nat) (cells : List (Nat × Byte)) : Mem :=
  cells.foldl (fun m c => m.write (c.1 % size) c.2) []

end Sys2Proof.Machine
end

