-- ==== Sys2Proof/Machine/Cartridge.lean ====
section
/-! DEFINITION. The cartridge: the iNES-style image and its load (52_cartridge R400–R407), and the identity
mapper's four functions (R410–R412). -/

namespace Sys2Proof.Machine

/-- The load's errors, "returned, not thrown" (R401). -/
inductive RomError where
  | illegalPointer | illegalSize | invalidSignature | unsupportedMapper | incompleteImage
  deriving DecidableEq, Repr

/-- Whether a bank count is a power of two (0 is not). -/
def isPowerOfTwo (n : Nat) : Bool := n != 0 && (n &&& (n - 1)) == 0

/-- Byte `k` of an image. -/
def imageByte (image : List Byte) (k : Nat) : Byte := image.getD k 0

/-- `(flags7 & 0xF0) | (flags6 >> 4)` (R402). -/
def imageMapper (image : List Byte) : Byte :=
  (imageByte image 7 &&& 0xF0) ||| (imageByte image 6 >>> 4)

/-- The mirroring mode of `flags6` (R403). -/
def imageMirroring (flags6 : Byte) : Mirroring :=
  if flags6.getLsbD 3 then .fourScreen
  else if flags6.getLsbD 0 then .vertical
  else .horizontal

/-- The header and the trainer (skipped, mapped nowhere: R404). -/
def imagePrgStart (image : List Byte) : Nat :=
  16 + if (imageByte image 6).getLsbD 2 then 512 else 0

/-- The cartridge of an image that passed the checks (R402–R406). -/
def cartridgeOf (image : List Byte) : Cartridge :=
  let prgSize := 16384 * (imageByte image 4).toNat
  let chrSize := 8192 * (imageByte image 5).toNat
  let chrIsRam := chrSize == 0
  let body := image.drop (imagePrgStart image)
  { prg := Mem.ofBytes 0 (body.take prgSize)
    prgMask := prgSize - 1
    chr := Mem.ofBytes 0 ((body.drop prgSize).take chrSize)
    chrMask := (if chrIsRam then 8192 else chrSize) - 1
    chrIsRam := chrIsRam
    mirroring := imageMirroring (imageByte image 6)
    mapper := imageMapper image }

/-- The ROM load: the checks in R401's order, the first failure wins. `none` is an absent image. -/
def loadCartridge : Option (List Byte) → Except RomError Cartridge
  | none => .error .illegalPointer
  | some image =>
    let prgBanks := (imageByte image 4).toNat
    let chrBanks := (imageByte image 5).toNat
    if image.length < 16 then .error .illegalSize
    else if image.take 4 ≠ [0x4E, 0x45, 0x53, 0x1A] then .error .invalidSignature
    else if imageMapper image ≠ 0 then .error .unsupportedMapper
    else if !isPowerOfTwo prgBanks || (chrBanks != 0 && !isPowerOfTwo chrBanks) then
      .error .illegalSize
    else if image.length < imagePrgStart image + 16384 * prgBanks + 8192 * chrBanks then
      .error .incompleteImage
    else .ok (cartridgeOf image)

/-! ### The identity mapper -/

/-- `read_prg` (R410): 0x6000–0x7FFF reads 0x00. -/
def Cartridge.readPrg (c : Cartridge) (addr : Word) : Byte :=
  if 0x8000 ≤ addr.toNat then c.prg.read ((addr.toNat - 0x8000) &&& c.prgMask) else 0

/-- `write_prg` (R410): no effect. -/
def Cartridge.writePrg (c : Cartridge) (_addr : Word) (_v : Byte) : Cartridge := c

/-- `read_chr` (R411). -/
def Cartridge.readChr (c : Cartridge) (a : BitVec 14) : Byte := c.chr.read (a.toNat &&& c.chrMask)

/-- `write_chr` (R411): only CHR RAM is writable. -/
def Cartridge.writeChr (c : Cartridge) (a : BitVec 14) (v : Byte) : Cartridge :=
  if c.chrIsRam then { c with chr := c.chr.write (a.toNat &&& c.chrMask) v } else c

/-! ### The cartridge as the buses see it; without one its space reads 0x00, as unmapped addresses do
(20_memory R84; log 8: no step is taken in such a state) -/

def cartReadPrg (cart : Option Cartridge) (addr : Word) : Byte :=
  match cart with
  | none => 0
  | some c => c.readPrg addr

def cartReadChr (cart : Option Cartridge) (a : BitVec 14) : Byte :=
  match cart with
  | none => 0
  | some c => c.readChr a

def cartWritePrg (cart : Option Cartridge) (addr : Word) (v : Byte) : Option Cartridge :=
  cart.map (fun c => c.writePrg addr v)

def cartWriteChr (cart : Option Cartridge) (a : BitVec 14) (v : Byte) : Option Cartridge :=
  cart.map (fun c => c.writeChr a v)

/-- The mirroring mode in force. -/
def cartMirroring (cart : Option Cartridge) : Mirroring :=
  match cart with
  | none => .horizontal
  | some c => c.mirroring

end Sys2Proof.Machine
end

