-- ==== Sys2Proof/Machine/PpuBus.lean ====
section
/-! DEFINITION. The PPU's 14-bit bus and the VRAM mux (20_memory R110–R115), and the NMI line and its edge
detector (60_exceptions R434–R436). -/

namespace Sys2Proof.Machine

/-- `MIRROR[mode][q]`, the physical table of a quadrant (R113). -/
def mirror (mode : Mirroring) (fourScreenMap : Vector (Fin 2) 4) (q : Fin 4) : Fin 2 :=
  match mode with
  | .horizontal => (#v[0, 0, 1, 1] : Vector (Fin 2) 4)[q]
  | .vertical => (#v[0, 1, 0, 1] : Vector (Fin 2) 4)[q]
  | .single0 => 0
  | .single1 => 1
  | .fourScreen => fourScreenMap[q]

/-- The quadrant of a nametable address (R112). -/
def quadrant (a : BitVec 14) : Fin 4 :=
  ⟨(a.toNat - 0x2000) % 0x1000 / 1024, by omega⟩

/-- Where a nametable address lies in `ciram` (R112). -/
def ciramIndex (cart : Option Cartridge) (params : Params) (a : BitVec 14) : Nat :=
  1024 * (mirror (cartMirroring cart) params.fourScreenMap (quadrant a)).val + (a &&& 0x3FF).toNat

/-- Where a palette address lies in `palette` (R114). -/
def palIndex (a : BitVec 14) : Nat :=
  let i := (a &&& 0x1F).toNat
  if 16 ≤ i ∧ i % 4 = 0 then i - 16 else i

/-- `PpuRead(a)` (R110). -/
def Ppu.busRead (cart : Option Cartridge) (params : Params) (p : Ppu) (a : BitVec 14) : Byte :=
  if a.toNat < 0x2000 then cartReadChr cart a
  else if a.toNat < 0x3F00 then p.ciram.read (ciramIndex cart params a)
  else p.palette.read (palIndex a)

/-- `PpuWrite(a, v)` (R110): the PPU and the cartridge afterwards. -/
def Ppu.busWrite (cart : Option Cartridge) (params : Params) (p : Ppu) (a : BitVec 14) (v : Byte) :
    Ppu × Option Cartridge :=
  if a.toNat < 0x2000 then (p, cartWriteChr cart a v)
  else if a.toNat < 0x3F00 then
    ({ p with ciram := p.ciram.write (ciramIndex cart params a) v }, cart)
  else ({ p with palette := p.palette.write (palIndex a) v }, cart)

/-- `nmi_line = (ctrl[7] = 1) and (vblank = 1)` (R434). -/
def Ppu.nmiLine (p : Ppu) : Bool := p.ctrl.getLsbD 7 && p.vblank

/-- `nmi_change()` (R435): only a rising edge schedules a delivery. -/
def Ppu.nmiChange (params : Params) (p : Ppu) : Ppu :=
  { p with
    nmiDelay := if p.nmiLine && !p.nmiPrevious then params.nmiDelayTicks else p.nmiDelay
    nmiPrevious := p.nmiLine }

/-- `nmi_countdown()` on the scheduled delay (R436). -/
def Ppu.nmiCountdown (p : Ppu) : Ppu := { p with nmiDelay := p.nmiDelay - 1 }

/-- Whether `nmi_countdown()` makes the NMI pending: the delay runs out and the line is still high (R436). -/
def Ppu.nmiDelivers (p : Ppu) : Bool := p.nmiDelay == 1 && p.nmiLine

end Sys2Proof.Machine
end

