-- ==== Sys2Proof/Machine/PpuRegs.lean ====
section
/-! DEFINITION. The eight PPU registers at 0x2000–0x3FFF (50_ppu R320–R350). The catch-up before each
access is the CPU bus's (20_memory R82). -/

namespace Sys2Proof.Machine

/-- `step` of R347: 32 if `ctrl[2]`, else 1. -/
def Ppu.vStep (p : Ppu) : BitVec 15 := if p.ctrl.getLsbD 2 then 32 else 1

/-- `v_increment()` (R347): mod 0x8000. -/
def Ppu.vIncrement (p : Ppu) : Ppu := { p with v := p.v + p.vStep }

/-- `v & 0x3FFF`, the PPU bus address of a `$2007` access (R345, R346). -/
def Ppu.dataAddr (p : Ppu) : BitVec 14 := p.v.setWidth 14

/-- The byte a `$2002` read returns (R330). -/
def Ppu.status (p : Ppu) : Byte :=
  (p.latch &&& 0x1F) ||| (bitByte p.spriteOverflow <<< 5) ||| (bitByte p.sprite0Hit <<< 6)
    ||| (bitByte p.vblank <<< 7)

/-- The side effects of a `$2002` read (R331). -/
def Ppu.afterStatusRead (params : Params) (p : Ppu) : Ppu :=
  Ppu.nmiChange params { p with vblank := false, w := false }

/-- The result of a `$2007` read (R345): delayed below 0x3F00, direct for the palette. -/
def Ppu.dataValue (cart : Option Cartridge) (params : Params) (p : Ppu) : Byte :=
  if p.dataAddr.toNat < 0x3F00 then p.readBuffer else p.busRead cart params p.dataAddr

/-- What a `$2007` read loads into the read buffer (R345): the byte at `v`, or the nametable byte under
the palette. -/
def Ppu.bufferReload (cart : Option Cartridge) (params : Params) (p : Ppu) : Byte :=
  if p.dataAddr.toNat < 0x3F00 then p.busRead cart params p.dataAddr
  else p.busRead cart params (p.dataAddr - 0x1000)

/-- The PPU after a `$2007` read (R345). -/
def Ppu.afterDataRead (cart : Option Cartridge) (params : Params) (p : Ppu) : Ppu :=
  Ppu.vIncrement { p with readBuffer := p.bufferReload cart params }

/-- A read of register `r`: the byte and the PPU afterwards (R320, R330, R333, R345, R348). -/
def Ppu.readReg (cart : Option Cartridge) (params : Params) (p : Ppu) (r : BitVec 3) : Byte × Ppu :=
  if r = 2 then (p.status, p.afterStatusRead params)
  else if r = 4 then (p.oam.read p.oamAddr.toNat, p)
  else if r = 7 then (p.dataValue cart params, p.afterDataRead cart params)
  else (0, p)

/-- A write of `$2000` (R323). -/
def Ppu.writeCtrl (params : Params) (p : Ppu) (d : Byte) : Ppu :=
  Ppu.nmiChange params
    { p with ctrl := d, t := (p.t &&& 0x73FF) ||| ((d &&& 0x03).setWidth 15 <<< 10) }

/-- A write of `$2004`, and each byte of OAM DMA (R334, 20_memory R100). -/
def Ppu.writeOam (p : Ppu) (d : Byte) : Ppu :=
  { p with oam := p.oam.write p.oamAddr.toNat d, oamAddr := p.oamAddr + 1 }

/-- A write of `$2005` (R336, R337). -/
def Ppu.writeScroll (p : Ppu) (d : Byte) : Ppu :=
  if p.w then
    let t := (p.t &&& 0x0FFF) ||| ((d &&& 0x07).setWidth 15 <<< 12)
    { p with t := (t &&& 0x7C1F) ||| ((d &&& 0xF8).setWidth 15 <<< 2), w := false }
  else
    { p with
      t := (p.t &&& 0x7FE0) ||| (d >>> 3).setWidth 15
      fineX := d.setWidth 3
      w := true }

/-- A write of `$2006` (R340, R341). -/
def Ppu.writeAddr (p : Ppu) (d : Byte) : Ppu :=
  if p.w then
    let t := (p.t &&& 0x7F00) ||| d.setWidth 15
    { p with t := t, v := t, w := false }
  else { p with t := (p.t &&& 0x00FF) ||| ((d &&& 0x3F).setWidth 15 <<< 8), w := true }

/-- A write of `$2007` (R346). -/
def Ppu.writeData (cart : Option Cartridge) (params : Params) (p : Ppu) (d : Byte) :
    Ppu × Option Cartridge :=
  let r := p.busWrite cart params p.dataAddr d
  (r.1.vIncrement, r.2)

/-- The effect of a write on register `r`, after the latch (R320). -/
def Ppu.writeRegEffect (cart : Option Cartridge) (params : Params) (p : Ppu) (r : BitVec 3) (d : Byte) :
    Ppu × Option Cartridge :=
  if r = 0 then (p.writeCtrl params d, cart)
  else if r = 1 then ({ p with mask := d }, cart)
  else if r = 3 then ({ p with oamAddr := d }, cart)
  else if r = 4 then (p.writeOam d, cart)
  else if r = 5 then (p.writeScroll d, cart)
  else if r = 6 then (p.writeAddr d, cart)
  else if r = 7 then p.writeData cart params d
  else (p, cart)

/-- A write of register `r`: every write loads `latch` before the register's own effect (R321); `$2002`
has no other effect (R349). -/
def Ppu.writeReg (cart : Option Cartridge) (params : Params) (p : Ppu) (r : BitVec 3) (d : Byte) :
    Ppu × Option Cartridge :=
  Ppu.writeRegEffect cart params { p with latch := d } r d

end Sys2Proof.Machine
end

