-- ==== Sys2Proof/Machine/Render.lean ====
section
/-! DEFINITION. The PPU agent: one tick of the dot and scanline sequencer, the background fetch, the scroll
updates, sprite evaluation, pixel composition, vblank and the status flags (51_ppu R361–R386). -/

namespace Sys2Proof.Machine

/-! ### The position (R362–R364) -/

/-- `rendering_enabled` (50_ppu R324): `mask[3]` or `mask[4]`. -/
def Ppu.renderingEnabled (p : Ppu) : Bool := p.mask.getLsbD 3 || p.mask.getLsbD 4

/-- The position advance with the odd-frame skip (R362, R363). -/
def Ppu.advance (p : Ppu) : Ppu :=
  if p.renderingEnabled && p.odd && p.scanline == 261 && p.dot == 339 then
    { p with dot := 0, scanline := 0, odd := !p.odd }
  else if p.dot + 1 ≤ 340 then { p with dot := p.dot + 1 }
  else if p.scanline + 1 ≤ 261 then { p with dot := 0, scanline := p.scanline + 1 }
  else { p with dot := 0, scanline := 0, odd := !p.odd }

def Ppu.visibleLine (p : Ppu) : Bool := p.scanline < 240
def Ppu.preLine (p : Ppu) : Bool := p.scanline == 261
def Ppu.renderLine (p : Ppu) : Bool := p.visibleLine || p.preLine
def Ppu.visibleDot (p : Ppu) : Bool := 1 ≤ p.dot && p.dot ≤ 256
def Ppu.prefetchDot (p : Ppu) : Bool := 321 ≤ p.dot && p.dot ≤ 336
def Ppu.fetchDot (p : Ppu) : Bool := p.visibleDot || p.prefetchDot

/-! ### The background fetch (R366–R371) -/

/-- The two pattern bits of pixel `k` of a pair of planes (R371, R376). -/
def planeBits (lo hi : Byte) (k : Nat) : BitVec 4 :=
  (BitVec.ofBool (lo.getLsbD k)).setWidth 4 ||| ((BitVec.ofBool (hi.getLsbD k)).setWidth 4 <<< 1)

/-- Eight 4-bit pixels as one word, leftmost in the top bits (R371, R376). -/
def packPixels (f : Nat → BitVec 4) : BitVec 32 :=
  (List.range 8).foldl (fun d i => (d <<< 4) ||| (f i).setWidth 32) 0

/-- Nametable address (R367). -/
def Ppu.ntAddr (p : Ppu) : BitVec 14 := 0x2000 ||| (p.v &&& 0x0FFF).setWidth 14

/-- Attribute address (R368). -/
def Ppu.atAddr (p : Ppu) : BitVec 14 :=
  0x23C0 ||| (p.v &&& 0x0C00).setWidth 14 ||| ((p.v >>> 4) &&& 0x38).setWidth 14
    ||| ((p.v >>> 2) &&& 0x07).setWidth 14

/-- Attribute shift: 0, 2, 4 or 6 by the quadrant (R368). -/
def Ppu.atShift (p : Ppu) : Nat := (((p.v >>> 4) &&& 0x04) ||| (p.v &&& 0x02)).toNat

/-- Background pattern address of the low plane (R369). -/
def Ppu.bgPatternAddr (p : Ppu) : BitVec 14 :=
  BitVec.ofNat 14 (0x1000 * bitNat (p.ctrl.getLsbD 4) + 16 * p.ntByte.toNat + (p.v.extractLsb' 12 3).toNat)

/-- The fold of the fetched tile into the low half of the shift register (R371). -/
def Ppu.foldTile (p : Ppu) : Ppu :=
  let data := packPixels (fun i => p.atBits ||| planeBits p.ptLo p.ptHi (7 - i))
  { p with tileData := p.tileData ||| data.setWidth 64 }

/-- `background_fetch()` (R366): the shift, then the action of `dot mod 8`. -/
def Ppu.backgroundFetch (cart : Option Cartridge) (params : Params) (p : Ppu) : Ppu :=
  let p := { p with tileData := p.tileData <<< 4 }
  match p.dot % 8 with
  | 1 => { p with ntByte := p.busRead cart params p.ntAddr }
  | 3 =>
    { p with atBits := ((p.busRead cart params p.atAddr >>> p.atShift) &&& 0x03).setWidth 4 <<< 2 }
  | 5 => { p with ptLo := p.busRead cart params p.bgPatternAddr }
  | 7 => { p with ptHi := p.busRead cart params (p.bgPatternAddr + 8) }
  | 0 => p.foldTile
  | _ => p

/-! ### Scroll updates of `v` (R372–R374) -/

/-- `increment_x()` (R372). -/
def incrementX (v : BitVec 15) : BitVec 15 :=
  if v.extractLsb' 0 5 = 31 then (v &&& 0x7FE0) ^^^ 0x0400 else v + 1

/-- `v` with coarse Y replaced (R373, last line). -/
def withCoarseY (v : BitVec 15) (y : BitVec 5) : BitVec 15 := (v &&& 0x7C1F) ||| (y.setWidth 15 <<< 5)

/-- `increment_y()` (R373). -/
def incrementY (v : BitVec 15) : BitVec 15 :=
  if v.extractLsb' 12 3 ≠ 7 then v + 0x1000
  else
    let v := v &&& 0x0FFF
    let y := v.extractLsb' 5 5
    if y = 29 then withCoarseY (v ^^^ 0x0800) 0
    else if y = 31 then withCoarseY v 0
    else withCoarseY v (y + 1)

/-- `copy_x()` (R374). -/
def copyX (v t : BitVec 15) : BitVec 15 := (v &&& 0x7BE0) ||| (t &&& 0x041F)

/-- `copy_y()` (R374). -/
def copyY (v t : BitVec 15) : BitVec 15 := (v &&& 0x041F) ||| (t &&& 0x7BE0)

/-! ### Sprites (R375–R377, 50_ppu R335) -/

/-- Byte `k` of sprite `n` (50_ppu R335). -/
def Ppu.spriteByte (p : Ppu) (n k : Nat) : Byte := p.oam.read (4 * n + k)

/-- The sprite height (R375). -/
def Ppu.spriteHeight (p : Ppu) : Nat := if p.ctrl.getLsbD 5 then 16 else 8

/-- Whether sprite `n` is on the current scanline: `0 ≤ scanline - Y < h` (R375). -/
def Ppu.spriteOnLine (p : Ppu) (n : Nat) : Bool :=
  (p.spriteByte n 0).toNat ≤ p.scanline && p.scanline - (p.spriteByte n 0).toNat < p.spriteHeight

/-- The pattern address of sprite `n` at `row`, vertical flip applied (R376). -/
def Ppu.spritePatternAddr (p : Ppu) (n row : Nat) : BitVec 14 :=
  let tile := (p.spriteByte n 1).toNat
  let flip := (p.spriteByte n 2).getLsbD 7
  if p.ctrl.getLsbD 5 then
    let row := if flip then 15 - row else row
    let even := tile - tile % 2
    let tile' := if row > 7 then even + 1 else even
    let row' := if row > 7 then row - 8 else row
    BitVec.ofNat 14 (0x1000 * (tile % 2) + 16 * tile' + row')
  else
    let row := if flip then 7 - row else row
    BitVec.ofNat 14 (0x1000 * bitNat (p.ctrl.getLsbD 3) + 16 * tile + row)

/-- `sprite_pattern(n, row)` (R376). -/
def Ppu.spritePattern (cart : Option Cartridge) (params : Params) (p : Ppu) (n row : Nat) : BitVec 32 :=
  let addr := p.spritePatternAddr n row
  let lo := p.busRead cart params addr
  let hi := p.busRead cart params (addr + 8)
  let attr := p.spriteByte n 2
  let palette : BitVec 4 := (attr &&& 0x03).setWidth 4 <<< 2
  packPixels (fun i => palette ||| planeBits lo hi (if attr.getLsbD 6 then i else 7 - i))

/-- The slot of sprite `n` on the current scanline (R375). -/
def Ppu.spriteSlot (cart : Option Cartridge) (params : Params) (p : Ppu) (n : Nat) : SpriteSlot where
  pattern := p.spritePattern cart params n (p.scanline - (p.spriteByte n 0).toNat)
  x := p.spriteByte n 3
  priority := (p.spriteByte n 2).getLsbD 5
  index := n

/-- The slots with a list of new contents written from slot `k` up. -/
def fillSlots (slots : Vector SpriteSlot 8) : Nat → List SpriteSlot → Vector SpriteSlot 8
  | _, [] => slots
  | k, s :: rest => fillSlots (slots.setIfInBounds k s) (k + 1) rest

/-- The OAM indices of the sprites on the current scanline, in original order (R375). -/
def Ppu.spritesOnLine (p : Ppu) : List Nat := (List.range 64).filter p.spriteOnLine

/-- `evaluate_sprites()` (R375): the first eight qualifying sprites fill the slots; more set overflow. -/
def Ppu.evaluateSprites (cart : Option Cartridge) (params : Params) (p : Ppu) : Ppu :=
  { p with
    slots := fillSlots p.slots 0 ((p.spritesOnLine.take 8).map (p.spriteSlot cart params))
    sprCount := min p.spritesOnLine.length 8
    spriteOverflow := p.spriteOverflow || decide (8 < p.spritesOnLine.length) }

/-! ### Pixels (R380–R383) -/

/-- Whether a 4-bit pixel is opaque: not 0 mod 4. -/
def opaquePixel (c : BitVec 4) : Bool := c.toNat % 4 != 0

/-- The background pixel at column `px` (R380). -/
def Ppu.backgroundPixel (p : Ppu) (px : Nat) : BitVec 4 :=
  if !p.mask.getLsbD 3 then 0
  else if px < 8 && !p.mask.getLsbD 1 then 0
  else (p.tileData >>> (32 + 4 * (7 - p.fineX.toNat))).setWidth 4

/-- The pixel of a slot at column `px`, 0 where the slot does not reach (R381). -/
def SpriteSlot.pixel (s : SpriteSlot) (px : Nat) : BitVec 4 :=
  if s.x.toNat ≤ px ∧ px - s.x.toNat ≤ 7 then
    (s.pattern >>> (4 * (7 - (px - s.x.toNat)))).setWidth 4
  else 0

/-- The sprite pixel at column `px`: the first active slot with an opaque pixel there (R381). -/
def Ppu.spritePixel (p : Ppu) (px : Nat) : Option SpriteSlot :=
  if !p.mask.getLsbD 4 then none
  else if px < 8 && !p.mask.getLsbD 2 then none
  else (p.slots.toList.take p.sprCount).find? (fun s => opaquePixel (s.pixel px))

/-- The 5-bit colour of column `px` (R382). -/
def Ppu.pixelColor (p : Ppu) (px : Nat) : BitVec 5 :=
  let bg := p.backgroundPixel px
  match opaquePixel bg, p.spritePixel px with
  | false, none => 0
  | false, some s => (s.pixel px).setWidth 5 ||| 0x10
  | true, none => bg.setWidth 5
  | true, some s => if s.priority then bg.setWidth 5 else (s.pixel px).setWidth 5 ||| 0x10

/-- Sprite-zero hit at column `px` (R383): the winning opaque sprite pixel over an opaque background is
sprite 0's and `px < 255`. -/
def Ppu.spriteZeroHits (p : Ppu) (px : Nat) : Bool :=
  match opaquePixel (p.backgroundPixel px), p.spritePixel px with
  | true, some s => s.index == 0 && decide (px < 255)
  | _, _ => false

/-- The byte the frame buffer takes for column `px` (R382). -/
def Ppu.pixelByte (p : Ppu) (px : Nat) : Byte :=
  p.palette.read (palIndex (0x3F00 ||| (p.pixelColor px).setWidth 14)) &&& 0x3F

/-- `render_pixel()` (R382). -/
def Ppu.renderPixel (p : Ppu) : Ppu :=
  { p with
    sprite0Hit := p.sprite0Hit || p.spriteZeroHits (p.dot - 1)
    frame := p.frame.write (256 * p.scanline + (p.dot - 1)) (p.pixelByte (p.dot - 1)) }

/-! ### The tick (R361) -/

/-- Sub-step 3d: the scroll updates of a render line. -/
def Ppu.scrollStep (p : Ppu) : Ppu :=
  let p := if p.fetchDot && p.dot % 8 == 0 then { p with v := incrementX p.v } else p
  let p := if p.dot == 256 then { p with v := incrementY p.v } else p
  if p.dot == 257 then { p with v := copyX p.v p.t } else p

/-- Sub-step 3e: sprite evaluation at dot 257 (R375, R377). -/
def Ppu.spriteStep (cart : Option Cartridge) (params : Params) (p : Ppu) : Ppu :=
  if p.dot == 257 then
    if p.visibleLine then p.evaluateSprites cart params else { p with sprCount := 0 }
  else p

/-- Sub-step 3, what happens while rendering is enabled, in the order a to e. -/
def Ppu.renderStep (cart : Option Cartridge) (params : Params) (p : Ppu) : Ppu :=
  let p := if p.visibleLine && p.visibleDot then p.renderPixel else p
  let p := if p.renderLine && p.fetchDot then p.backgroundFetch cart params else p
  let p := if p.preLine && decide (280 ≤ p.dot) && decide (p.dot ≤ 304) then
    { p with v := copyY p.v p.t } else p
  let p := if p.renderLine then p.scrollStep else p
  p.spriteStep cart params

/-- `vblank_begin()` (R384): the frame is delivered as it stands. -/
def Ppu.vblankBegin (params : Params) (p : Ppu) : Ppu :=
  let p := Ppu.nmiChange params { p with vblank := true }
  { p with frameReady := true, delivered := p.frame :: p.delivered }

/-- `flags_clear()` (R385). -/
def Ppu.flagsClear (params : Params) (p : Ppu) : Ppu :=
  let p := Ppu.nmiChange params { p with vblank := false }
  { p with sprite0Hit := false, spriteOverflow := false }

/-- Sub-steps 2 to 5 of a tick. -/
def Ppu.sequence (cart : Option Cartridge) (params : Params) (p : Ppu) : Ppu :=
  let p := p.advance
  let p := if p.renderingEnabled then p.renderStep cart params else p
  let p := if p.scanline == 241 && p.dot == 1 then p.vblankBegin params else p
  if p.scanline == 261 && p.dot == 1 then p.flagsClear params else p

/-- One tick (R361): the PPU and the CPU's pending tag afterwards. -/
def Ppu.tick (cart : Option Cartridge) (params : Params) : Ppu × Pending → Ppu × Pending
  | (p, pending) =>
    (Ppu.sequence cart params p.nmiCountdown, if p.nmiDelivers then .nmi else pending)

/-- `n` ticks. -/
def Ppu.ticks (cart : Option Cartridge) (params : Params) : Nat → Ppu × Pending → Ppu × Pending
  | 0, s => s
  | n + 1, s => Ppu.ticks cart params n (Ppu.tick cart params s)

end Sys2Proof.Machine
end

