-- ==== Sys2Proof/Machine/Bus.lean ====
section
/-! DEFINITION. The CPU bus (20_memory R80–R91): the decoder with every side effect of an address, the PPU
catch-up (51_ppu R360), OAM DMA (20_memory R100–R102) and the controller latch (52_cartridge R420–R423). -/

namespace Sys2Proof.Machine

/-- How many ticks a catch-up owes (51_ppu R360). -/
def State.ticksOwed (s : State) : Nat := (s.cycles - s.ppu.lastSynced) * 3

/-- The PPU and the pending tag after the owed ticks. -/
def State.replayed (s : State) : Ppu × Pending :=
  Ppu.ticks s.cart s.params s.ticksOwed (s.ppu, s.pending)

/-- `catch_up()` (51_ppu R360). -/
def State.catchUp (s : State) : State :=
  { s with ppu := { s.replayed.1 with lastSynced := s.cycles }, pending := s.replayed.2 }

/-! ### The controller latch -/

/-- Byte `k` of the snapshot: 7:0 is controller 1 (R420). -/
def snapshotByte (snapshot : BitVec 16) (second : Bool) : Byte :=
  if second then snapshot.extractLsb' 8 8 else snapshot.setWidth 8

/-- The shift register a read takes its bit from: reloaded while the strobe is high (R421). -/
def Pad.shifter (p : Pad) (second : Bool) : Byte :=
  if p.strobe then snapshotByte p.snapshot second else if second then p.shift1 else p.shift0

/-- A read of controller port 1 or 2 (R421): one bit, bits 7:1 are 0. -/
def Pad.serialBit (p : Pad) (second : Bool) : Byte := p.shifter second &&& 0x01

/-- The latch after that read: a 1 is shifted in from the top (R421). -/
def Pad.shifted (p : Pad) (second : Bool) : Pad :=
  let r := (p.shifter second >>> 1) ||| 0x80
  if second then { p with shift1 := r } else { p with shift0 := r }

/-- The latch with both registers loaded from a snapshot. -/
def Pad.load (snapshot : BitVec 16) (strobe : Bool) : Pad where
  strobe := strobe
  snapshot := snapshot
  shift0 := snapshotByte snapshot false
  shift1 := snapshotByte snapshot true

/-- What `INPUT()` answers next (R423): an answer already fixed, else the free value (log 5). -/
def State.inputAnswer (s : State) : BitVec 16 :=
  match s.inputs with
  | [] => Config.input s.inputCalls
  | d :: _ => d

/-- The strobe write to 0x4016 (R422): `INPUT()` is asked only on the strobe's fall. -/
def State.strobeWrite (s : State) (d : Byte) : State :=
  if d.getLsbD 0 then { s with pad := Pad.load s.pad.snapshot true }
  else if s.pad.strobe then
    { s with
      pad := Pad.load s.inputAnswer false
      inputs := s.inputs.tail
      inputCalls := s.inputCalls + 1 }
  else s

/-! ### The decoder (R80) -/

/-- A read of PPU register `addr & 7` after the catch-up (R82). -/
def State.ppuRead (s : State) (addr : Word) : Byte × State :=
  let s := s.catchUp
  let r := s.ppu.readReg s.cart s.params (addr.setWidth 3)
  (r.1, { s with ppu := r.2 })

/-- A write of PPU register `addr & 7` after the catch-up (R82). -/
def State.ppuWrite (s : State) (addr : Word) (d : Byte) : State :=
  let s := s.catchUp
  let r := s.ppu.writeReg s.cart s.params (addr.setWidth 3) d
  { s with ppu := r.1, cart := r.2 }

/-- The internal RAM byte an address in 0x0000–0x1FFF names (R81). -/
def ramIndex (addr : Word) : Nat := (addr &&& 0x07FF).toNat

/-- `MemRead(addr, 1)` (R80): the byte and the state after the read's side effects. -/
def State.read (s : State) (addr : Word) : Byte × State :=
  if addr.toNat < 0x2000 then (s.ram.read (ramIndex addr), s)
  else if addr.toNat < 0x4000 then s.ppuRead addr
  else if addr = 0x4016 then (s.pad.serialBit false, { s with pad := s.pad.shifted false })
  else if addr = 0x4017 then (s.pad.serialBit true, { s with pad := s.pad.shifted true })
  else if 0x6000 ≤ addr.toNat then (cartReadPrg s.cart addr, s)
  else (0, s)

/-- `n` bytes copied from `addr` up into sprite memory at its cursor (R100, R101). -/
def State.dmaCopy : Nat → Word → State → State
  | 0, _, s => s
  | n + 1, addr, s =>
    let r := s.read addr
    State.dmaCopy n (addr + 1) { r.2 with ppu := r.2.ppu.writeOam r.1 }

/-- OAM DMA of page `d` (R100): 256 bytes at once, the time charged as stall cycles. -/
def State.oamDma (s : State) (d : Byte) : State :=
  let s := s.dmaCopy 256 (mkWord d 0)
  { s with stall := s.stall + 513 + s.cycles % 2 }

/-- `MemWrite(addr, 1, v)` (R80). -/
def State.write (s : State) (addr : Word) (v : Byte) : State :=
  if addr.toNat < 0x2000 then { s with ram := s.ram.write (ramIndex addr) v }
  else if addr.toNat < 0x4000 then s.ppuWrite addr v
  else if addr = 0x4014 then s.oamDma v
  else if addr = 0x4016 then s.strobeWrite v
  else if 0x6000 ≤ addr.toNat then { s with cart := cartWritePrg s.cart addr v }
  else s

/-- The byte of the CPU address space's memory at an address, without a side effect: RAM, PRG, or 0x00
where there is no memory. -/
def State.memByte (s : State) (addr : Word) : Byte :=
  if addr.toNat < 0x2000 then s.ram.read (ramIndex addr)
  else if 0x6000 ≤ addr.toNat then cartReadPrg s.cart addr
  else 0

end Sys2Proof.Machine
end

