-- ==== Sys2Proof/Machine/Flags.lean ====
section
/-! DEFINITION. The status byte's flags (10_state R33) and every flag computation: the ALU as functions
of the operands and P (43_alu R240–R254, 44_shift R270–R273), and the pushed and pulled status bytes
(10_state R34, R35). -/

namespace Sys2Proof.Machine

/-! ### Reading and writing one flag (R33) -/

def flagC (p : Byte) : Bool := p.getLsbD 0
def flagZ (p : Byte) : Bool := p.getLsbD 1
def flagI (p : Byte) : Bool := p.getLsbD 2
def flagD (p : Byte) : Bool := p.getLsbD 3
def flagB (p : Byte) : Bool := p.getLsbD 4
def flagU (p : Byte) : Bool := p.getLsbD 5
def flagV (p : Byte) : Bool := p.getLsbD 6
def flagN (p : Byte) : Bool := p.getLsbD 7

def putC (p : Byte) (b : Bool) : Byte := withBit p 0 b
def putZ (p : Byte) (b : Bool) : Byte := withBit p 1 b
def putI (p : Byte) (b : Bool) : Byte := withBit p 2 b
def putD (p : Byte) (b : Bool) : Byte := withBit p 3 b
def putV (p : Byte) (b : Bool) : Byte := withBit p 6 b
def putN (p : Byte) (b : Bool) : Byte := withBit p 7 b

/-- `set_nz(v)` (00_scope R14). -/
def putNZ (p v : Byte) : Byte := putN (putZ p (v == 0)) (v.getLsbD 7)

/-- The byte PHP, BRK and interrupt entry push: `P | 0x10` (R35, 42_stack R232). -/
def pushedStatus (p : Byte) : Byte := p ||| 0x10

/-- P after PLP or RTI pulls `t`: B forced to 0, U to 1 (R34, R35, 42_stack R233, 45_control R284). -/
def pulledStatus (t : Byte) : Byte := (t &&& 0xCF) ||| 0x20

/-! ### Arithmetic -/

/-- ADC's result and P (R244): binary whatever D holds (R243). -/
def addCarry (a m p : Byte) : Byte × Byte :=
  let s := a.toNat + m.toNat + bitNat (flagC p)
  let r := BitVec.ofNat 8 s
  let v := (~~~(a ^^^ m) &&& (a ^^^ r)).getLsbD 7
  (r, putNZ (putC (putV p v) (decide (256 ≤ s))) r)

/-- SBC's result and P (R245): C = 1 means no borrow. -/
def subBorrow (a m p : Byte) : Byte × Byte :=
  let d : Int := (a.toNat : Int) - (m.toNat : Int) - (1 - (bitNat (flagC p) : Int))
  let r := BitVec.ofInt 8 d
  let v := ((a ^^^ m) &&& (a ^^^ r)).getLsbD 7
  (r, putNZ (putV (putC p (decide (0 ≤ d))) v) r)

/-- P after CMP, CPX or CPY of a register with `m` (R242). -/
def compareFlags (reg m p : Byte) : Byte :=
  let d := reg - m
  putN (putZ (putC p (decide (m.toNat ≤ reg.toNat))) (reg == m)) (d.getLsbD 7)

/-- P after BIT (R252). -/
def bitFlags (a m p : Byte) : Byte :=
  putN (putV (putZ p ((a &&& m) == 0)) (m.getLsbD 6)) (m.getLsbD 7)

/-! ### Shifts, rotates, increments: result and P -/

/-- ASL (R270). -/
def shiftLeft (m p : Byte) : Byte × Byte :=
  let r := m <<< 1
  (r, putNZ (putC p (m.getLsbD 7)) r)

/-- LSR (R271). -/
def shiftRight (m p : Byte) : Byte × Byte :=
  let r := m >>> 1
  (r, putNZ (putC p (m.getLsbD 0)) r)

/-- ROL (R272): the old C enters bit 0. -/
def rotateLeft (m p : Byte) : Byte × Byte :=
  let r := (m <<< 1) ||| bitByte (flagC p)
  (r, putNZ (putC p (m.getLsbD 7)) r)

/-- ROR (R273): the old C enters bit 7. -/
def rotateRight (m p : Byte) : Byte × Byte :=
  let r := (m >>> 1) ||| (bitByte (flagC p) <<< 7)
  (r, putNZ (putC p (m.getLsbD 0)) r)

/-- INC (R253). -/
def increment (m p : Byte) : Byte × Byte := (m + 1, putNZ p (m + 1))

/-- DEC (R254). -/
def decrement (m p : Byte) : Byte × Byte := (m - 1, putNZ p (m - 1))

end Sys2Proof.Machine
end

