-- ==== Sys2Proof/Machine/Ops.lean ====
section
/-! DEFINITION. The named operations every meaning is written with: register updates, 16-bit reads, the
stack (42_stack R230), PC advance and cycle count (40_engine R174–R176), taking a trap (60_exceptions
R440, 45_control R283) and returning from one (45_control R284). -/

namespace Sys2Proof.Machine

/-! ### Registers -/

def State.setA (s : State) (v : Byte) : State := { s with a := v }
def State.setX (s : State) (v : Byte) : State := { s with x := v }
def State.setY (s : State) (v : Byte) : State := { s with y := v }
def State.setSP (s : State) (v : Byte) : State := { s with sp := v }
def State.setPC (s : State) (w : Word) : State := { s with pc := w }
def State.setP (s : State) (v : Byte) : State := { s with p := v }
def State.addCycles (s : State) (n : Nat) : State := { s with cycles := s.cycles + n }

/-- `set_nz(v)` on the machine's P (00_scope R14). -/
def State.setNZ (s : State) (v : Byte) : State := s.setP (putNZ s.p v)

/-! ### 16-bit reads: two byte reads, low byte first (20_memory R87) -/

/-- The address whose byte is the high byte of `read16_bug(p)`: in the page of `p` (40_engine R180). -/
def samePageNext (p : Word) : Word := (p &&& 0xFF00) ||| ((p + 1) &&& 0x00FF)

/-- Two byte reads, the low byte at `lo` first, then the high byte at `hi`. -/
def State.readPair (s : State) (lo hi : Word) : Word × State :=
  let l := s.read lo
  let h := l.2.read hi
  (mkWord h.1 l.1, h.2)

/-- `read16(a)` (00_scope R14). -/
def State.read16 (s : State) (a : Word) : Word × State := s.readPair a (a + 1)

/-- `read16_bug(p)` (40_engine R180). -/
def State.read16Bug (s : State) (p : Word) : Word × State := s.readPair p (samePageNext p)

/-! ### The stack (R230) -/

/-- `0x0100 | SP`. -/
def stackAddr (sp : Byte) : Word := 0x0100 ||| zext16 sp

/-- `push(v)`: write, then decrement. -/
def State.push (s : State) (v : Byte) : State := (s.write (stackAddr s.sp) v).setSP (s.sp - 1)

/-- `pull()`: increment, then read. -/
def State.pull (s : State) : Byte × State := (s.setSP (s.sp + 1)).read (stackAddr (s.sp + 1))

/-- A 16-bit value pushed high byte first (20_memory R86). -/
def State.pushWord (s : State) (w : Word) : State := (s.push (hiByte w)).push (loByte w)

/-- A 16-bit value pulled low byte first. -/
def State.pullWord (s : State) : Word × State :=
  let lo := s.pull
  let hi := lo.2.pull
  (mkWord hi.1 lo.1, hi.2)

/-! ### PC and cycles -/

/-- "Advance PC by instruction length", mod 0x10000 (40_engine R175). -/
def State.advance (s : State) (d : Desc) : State := s.setPC (s.pc + BitVec.ofNat 16 d.length)

/-- The extra cycles of one instruction (40_engine R174): the page-cross bonus, a taken branch, a taken
branch to another page. -/
def extraCycles (d : Desc) (crossed taken far : Bool) : Nat :=
  bitNat (d.pageCross && crossed) + bitNat (d.branch && taken) + bitNat (d.branch && taken && far)

/-! ### Traps -/

/-- The NMI, reset and IRQ/BRK vectors (60_exceptions R431). -/
def nmiVector : Word := 0xFFFA
def resetVector : Word := 0xFFFC
def irqVector : Word := 0xFFFE

/-- Taking a trap, shared by NMI, IRQ and BRK: push PC-high, PC-low, `P | 0x10`; set I; load PC from the
vector (60_exceptions R440, 45_control R283). -/
def State.takeTrap (s : State) (vector : Word) : State :=
  let s := (s.pushWord s.pc).push (pushedStatus s.p)
  let s := s.setP (putI s.p true)
  let r := s.read16 vector
  r.2.setPC r.1

/-- Interrupt entry `enter(kind)`: the trap, 7 cycles, `pending` cleared (60_exceptions R440). -/
def State.enterInterrupt (s : State) (vector : Word) : State :=
  { (s.takeTrap vector).addCycles 7 with pending := .none }

/-- Return from a trap: P (B forced 0, U forced 1), then PC-low, PC-high; no 1 is added (45_control R284). -/
def State.returnFromTrap (s : State) : State :=
  let t := s.pull
  let s := t.2.setP (pulledStatus t.1)
  let r := s.pullWord
  r.2.setPC r.1

/-! ### Marks -/

/-- `refuse IllegalOpcode(op)`: only the mark changes (47_undocumented R310). -/
def State.refuse (s : State) : State := { s with refused := true }

/-- The "flagged as incomplete" mark (47_undocumented R311). -/
def State.markStubbed (s : State) : State := { s with stubbed := true }

/-- The outcome of `exec` and `step`. -/
abbrev Result := Host.Outcome State Fault Refusal

end Sys2Proof.Machine
end

