-- ==== Sys2Proof/Machine/Operands.lean ====
section
/-! DEFINITION. The addressing modes (40_engine R177–R195) and the shapes of access an instruction makes
with one: read, store, read-modify-write, nothing, branch. Each shape advances PC, resolves the operand,
acts, and adds the cycles last (R170, R178). -/

namespace Sys2Proof.Machine

/-- The modes that name a memory address. -/
inductive AddrForm where
  | zp (z : Byte) | zpx (z : Byte) | zpy (z : Byte) | abs (w : Word) | abx (w : Word) | aby (w : Word)
  | izx (z : Byte) | izy (z : Byte)
  deriving DecidableEq, Repr

/-- The operand of a read instruction. -/
inductive Source where
  | imm (i : Byte) | mem (f : AddrForm)
  deriving DecidableEq, Repr

/-- The operand of a read-modify-write instruction. -/
inductive Target where
  | acc | mem (f : AddrForm)
  deriving DecidableEq, Repr

/-- A resolved address: the base it was indexed from and the effective address (R179). For a mode without
an index, and for the zero-page modes, which never cross, the two are equal. -/
structure Effective where
  base : Word
  ea : Word
  deriving DecidableEq, Repr

/-- `crossed` (R179). -/
def Effective.crossed (e : Effective) : Bool := pageDiffers e.base e.ea

/-- An address without a base to cross from. -/
def Effective.plain (ea : Word) : Effective := ⟨ea, ea⟩

/-- A 16-bit base plus an index, mod 0x10000 (R190, R191, R194). -/
def Effective.indexed (base : Word) (index : Byte) : Effective := ⟨base, base + zext16 index⟩

/-- The effective address of a mode, and the state after the mode's pointer reads (R186–R194). -/
def AddrForm.resolve (f : AddrForm) (s : State) : Effective × State :=
  match f with
  | .zp z => (.plain (zext16 z), s)
  | .zpx z => (.plain (zext16 (z + s.x)), s)
  | .zpy z => (.plain (zext16 (z + s.y)), s)
  | .abs w => (.plain w, s)
  | .abx w => (.indexed w s.x, s)
  | .aby w => (.indexed w s.y, s)
  | .izx z =>
    let r := s.read16Bug (zext16 (z + s.x))
    (.plain r.1, r.2)
  | .izy z =>
    let r := s.read16Bug (zext16 z)
    (.indexed r.1 r.2.y, r.2)

/-- The pre-cross address of the dummy read (R182). -/
def Effective.preCross (e : Effective) : Word := (e.base &&& 0xFF00) ||| (e.ea &&& 0x00FF)

/-- The dummy read of a read-modify-write form that crosses a page; its value is discarded (R182). -/
def State.dummyRead (s : State) (d : Desc) (e : Effective) : State :=
  if d.rmw && e.crossed then (s.read e.preCross).2 else s

end Sys2Proof.Machine

namespace Sys2Proof

open Machine

/-! ### The modes of each mnemonic as addresses -/

def ReadMode.source : ReadMode → Source
  | .imm i => .imm i
  | .zp z => .mem (.zp z)
  | .zpx z => .mem (.zpx z)
  | .abs w => .mem (.abs w)
  | .abx w => .mem (.abx w)
  | .aby w => .mem (.aby w)
  | .izx z => .mem (.izx z)
  | .izy z => .mem (.izy z)

def LdxMode.source : LdxMode → Source
  | .imm i => .imm i
  | .zp z => .mem (.zp z)
  | .zpy z => .mem (.zpy z)
  | .abs w => .mem (.abs w)
  | .aby w => .mem (.aby w)

def LdyMode.source : LdyMode → Source
  | .imm i => .imm i
  | .zp z => .mem (.zp z)
  | .zpx z => .mem (.zpx z)
  | .abs w => .mem (.abs w)
  | .abx w => .mem (.abx w)

def CpxMode.source : CpxMode → Source
  | .imm i => .imm i
  | .zp z => .mem (.zp z)
  | .abs w => .mem (.abs w)

def BitMode.source : BitMode → Source
  | .zp z => .mem (.zp z)
  | .abs w => .mem (.abs w)

def MemMode.form : MemMode → AddrForm
  | .zp z => .zp z
  | .zpx z => .zpx z
  | .abs w => .abs w
  | .abx w => .abx w
  | .aby w => .aby w
  | .izx z => .izx z
  | .izy z => .izy z

def StxMode.form : StxMode → AddrForm
  | .zp z => .zp z
  | .zpy z => .zpy z
  | .abs w => .abs w

def StyMode.form : StyMode → AddrForm
  | .zp z => .zp z
  | .zpx z => .zpx z
  | .abs w => .abs w

def ShiftMode.target : ShiftMode → Target
  | .acc => .acc
  | .zp z => .mem (.zp z)
  | .zpx z => .mem (.zpx z)
  | .abs w => .mem (.abs w)
  | .abx w => .mem (.abx w)

def IncMode.target : IncMode → Target
  | .zp z => .mem (.zp z)
  | .zpx z => .mem (.zpx z)
  | .abs w => .mem (.abs w)
  | .abx w => .mem (.abx w)

end Sys2Proof

namespace Sys2Proof.Machine

/-! ### Reading an operand -/

/-- What `load()` gives for a read instruction (R177): the value, whether the address crossed a page, and
the state after the reads. -/
structure Loaded where
  value : Byte
  crossed : Bool
  state : State

/-- The operand of a read instruction, read once (R177). -/
def Source.load (o : Source) (s : State) : Loaded :=
  match o with
  | .imm i => ⟨i, false, s⟩
  | .mem f =>
    let r := f.resolve s
    let l := r.2.read r.1.ea
    ⟨l.1, r.1.crossed, l.2⟩

/-! ### The shapes of access -/

/-- A read instruction: `f` is its operation on the operand (R177). -/
def readOp (d : Desc) (o : Source) (f : Byte → State → State) (s : State) : State :=
  let l := o.load (s.advance d)
  (f l.value l.state).addCycles (d.baseCycles + extraCycles d l.crossed false false)

/-- A store of `v` (R177). -/
def storeOp (d : Desc) (a : AddrForm) (v : State → Byte) (s : State) : State :=
  let r := a.resolve (s.advance d)
  (r.2.write r.1.ea (v r.2)).addCycles (d.baseCycles + extraCycles d r.1.crossed false false)

/-- A read-modify-write instruction: one `load`, one `store`; `f` gives the result and P from the operand
and P (R177, R182). -/
def rmwOp (d : Desc) (t : Target) (f : Byte → Byte → Byte × Byte) (s : State) : State :=
  let s := s.advance d
  match t with
  | .acc =>
    let r := f s.a s.p
    ((s.setA r.1).setP r.2).addCycles d.baseCycles
  | .mem a =>
    let e := a.resolve s
    let l := (e.2.dummyRead d e.1).read e.1.ea
    let r := f l.1 l.2.p
    ((l.2.write e.1.ea r.1).setP r.2).addCycles (d.baseCycles + extraCycles d e.1.crossed false false)

/-- An instruction whose operation `f` names its own operands (R183). -/
def impliedOp (d : Desc) (f : State → State) (s : State) : State :=
  (f (s.advance d)).addCycles (d.baseCycles + extraCycles d false false false)

/-- The target of a branch: the address after it plus the signed offset, mod 0x10000 (R195). -/
def branchTarget (pcNext : Word) (o : Byte) : Word := pcNext + sext16 o

/-- A branch (45_control R285). -/
def branchOp (d : Desc) (taken : Bool) (o : Byte) (s : State) : State :=
  let s := s.advance d
  let target := branchTarget s.pc o
  (if taken then s.setPC target else s).addCycles
    (d.baseCycles + extraCycles d false taken (pageDiffers target s.pc))

end Sys2Proof.Machine
end

