-- ==== Sys2Proof/Machine/Alu.lean ====
section
/-! DEFINITION. Arithmetic, logic, compare and increment (43_alu R244–R258). -/

namespace Sys2Proof.Machine

/-- A result and P written to A and P. -/
def State.setAP (s : State) (r : Byte × Byte) : State := (s.setA r.1).setP r.2

/-- ADC (R244). -/
def execAdc (m : ReadMode) (s : State) : Result :=
  .next (readOp (Instr.adc m).desc m.source (fun v s => s.setAP (addCarry s.a v s.p)) s)

/-- SBC (R245). -/
def execSbc (m : ReadMode) (s : State) : Result :=
  .next (readOp (Instr.sbc m).desc m.source (fun v s => s.setAP (subBorrow s.a v s.p)) s)

/-- AND (R246). -/
def execAnd (m : ReadMode) (s : State) : Result :=
  .next (readOp (Instr.and m).desc m.source (fun v s => (s.setA (s.a &&& v)).setNZ (s.a &&& v)) s)

/-- ORA (R247). -/
def execOra (m : ReadMode) (s : State) : Result :=
  .next (readOp (Instr.ora m).desc m.source (fun v s => (s.setA (s.a ||| v)).setNZ (s.a ||| v)) s)

/-- EOR (R248). -/
def execEor (m : ReadMode) (s : State) : Result :=
  .next (readOp (Instr.eor m).desc m.source (fun v s => (s.setA (s.a ^^^ v)).setNZ (s.a ^^^ v)) s)

/-- CMP (R249). -/
def execCmp (m : ReadMode) (s : State) : Result :=
  .next (readOp (Instr.cmp m).desc m.source (fun v s => s.setP (compareFlags s.a v s.p)) s)

/-- CPX (R250). -/
def execCpx (m : CpxMode) (s : State) : Result :=
  .next (readOp (Instr.cpx m).desc m.source (fun v s => s.setP (compareFlags s.x v s.p)) s)

/-- CPY (R251). -/
def execCpy (m : CpxMode) (s : State) : Result :=
  .next (readOp (Instr.cpy m).desc m.source (fun v s => s.setP (compareFlags s.y v s.p)) s)

/-- BIT (R252). -/
def execBit (m : BitMode) (s : State) : Result :=
  .next (readOp (Instr.bit m).desc m.source (fun v s => s.setP (bitFlags s.a v s.p)) s)

/-- INC (R253). -/
def execInc (m : IncMode) (s : State) : Result :=
  .next (rmwOp (Instr.inc m).desc m.target increment s)

/-- DEC (R254). -/
def execDec (m : IncMode) (s : State) : Result :=
  .next (rmwOp (Instr.dec m).desc m.target decrement s)

/-- INX (R255). -/
def execInx (s : State) : Result :=
  .next (impliedOp Instr.inx.desc (fun s => (s.setX (s.x + 1)).setNZ (s.x + 1)) s)

/-- INY (R256). -/
def execIny (s : State) : Result :=
  .next (impliedOp Instr.iny.desc (fun s => (s.setY (s.y + 1)).setNZ (s.y + 1)) s)

/-- DEX (R257). -/
def execDex (s : State) : Result :=
  .next (impliedOp Instr.dex.desc (fun s => (s.setX (s.x - 1)).setNZ (s.x - 1)) s)

/-- DEY (R258). -/
def execDey (s : State) : Result :=
  .next (impliedOp Instr.dey.desc (fun s => (s.setY (s.y - 1)).setNZ (s.y - 1)) s)

end Sys2Proof.Machine
end

