-- ==== Sys2Proof/Machine/Control.lean ====
section
/-! DEFINITION. Control transfer (45_control_transfer R280–R293). In every operation PC already holds the
address after the instruction. -/

namespace Sys2Proof

open Machine

/-- Where JMP goes, and the state after an indirect form's pointer reads (R280, 40_engine R192). -/
def JmpMode.target (m : JmpMode) (s : State) : Word × State :=
  match m with
  | .abs w => (w, s)
  | .ind w => s.read16Bug w

end Sys2Proof

namespace Sys2Proof.Machine

/-- JMP (R280). -/
def execJmp (m : JmpMode) (s : State) : Result :=
  .next (impliedOp (Instr.jmp m).desc (fun s => (m.target s).2.setPC (m.target s).1) s)

/-- JSR (R281): pushes the address of its own last byte. -/
def execJsr (w : Word) (s : State) : Result :=
  .next (impliedOp (Instr.jsr w).desc (fun s => (s.pushWord (s.pc - 1)).setPC w) s)

/-- RTS (R282): adds the 1 back. -/
def execRts (s : State) : Result :=
  .next (impliedOp Instr.rts.desc (fun s => s.pullWord.2.setPC (s.pullWord.1 + 1)) s)

/-- BRK (R283): the trap at the IRQ/BRK vector; `pending` is untouched and I is not consulted. -/
def execBrk (s : State) : Result :=
  .next (impliedOp Instr.brk.desc (fun s => s.takeTrap irqVector) s)

/-- RTI (R284). -/
def execRti (s : State) : Result :=
  .next (impliedOp Instr.rti.desc State.returnFromTrap s)

/-- BCC (R286). -/
def execBcc (o : Byte) (s : State) : Result :=
  .next (branchOp (Instr.bcc o).desc (!flagC s.p) o s)

/-- BCS (R287). -/
def execBcs (o : Byte) (s : State) : Result :=
  .next (branchOp (Instr.bcs o).desc (flagC s.p) o s)

/-- BEQ (R288). -/
def execBeq (o : Byte) (s : State) : Result :=
  .next (branchOp (Instr.beq o).desc (flagZ s.p) o s)

/-- BMI (R289). -/
def execBmi (o : Byte) (s : State) : Result :=
  .next (branchOp (Instr.bmi o).desc (flagN s.p) o s)

/-- BNE (R290). -/
def execBne (o : Byte) (s : State) : Result :=
  .next (branchOp (Instr.bne o).desc (!flagZ s.p) o s)

/-- BPL (R291). -/
def execBpl (o : Byte) (s : State) : Result :=
  .next (branchOp (Instr.bpl o).desc (!flagN s.p) o s)

/-- BVC (R292). -/
def execBvc (o : Byte) (s : State) : Result :=
  .next (branchOp (Instr.bvc o).desc (!flagV s.p) o s)

/-- BVS (R293). -/
def execBvs (o : Byte) (s : State) : Result :=
  .next (branchOp (Instr.bvs o).desc (flagV s.p) o s)

end Sys2Proof.Machine
end

