-- ==== Sys2Proof/Machine/FlagOps.lean ====
section
/-! DEFINITION. Flag instructions and NOP (46_flags_nop R300–R307). -/

namespace Sys2Proof.Machine

/-- CLC (R300). -/
def execClc (s : State) : Result :=
  .next (impliedOp Instr.clc.desc (fun s => s.setP (putC s.p false)) s)

/-- CLD (R301). -/
def execCld (s : State) : Result :=
  .next (impliedOp Instr.cld.desc (fun s => s.setP (putD s.p false)) s)

/-- CLI (R302). -/
def execCli (s : State) : Result :=
  .next (impliedOp Instr.cli.desc (fun s => s.setP (putI s.p false)) s)

/-- CLV (R303). -/
def execClv (s : State) : Result :=
  .next (impliedOp Instr.clv.desc (fun s => s.setP (putV s.p false)) s)

/-- SEC (R304). -/
def execSec (s : State) : Result :=
  .next (impliedOp Instr.sec.desc (fun s => s.setP (putC s.p true)) s)

/-- SED (R305). -/
def execSed (s : State) : Result :=
  .next (impliedOp Instr.sed.desc (fun s => s.setP (putD s.p true)) s)

/-- SEI (R306). -/
def execSei (s : State) : Result :=
  .next (impliedOp Instr.sei.desc (fun s => s.setP (putI s.p true)) s)

/-- NOP (R307): only PC and `cycles` advance. -/
def execNop (s : State) : Result :=
  .next (impliedOp Instr.nop.desc id s)

end Sys2Proof.Machine
end

