-- ==== Sys2Proof/Machine/Load.lean ====
section
/-! DEFINITION. Loads, stores and register transfers (41_load_store_transfer R210–R221). -/

namespace Sys2Proof.Machine

/-- LDA (R210). -/
def execLda (m : ReadMode) (s : State) : Result :=
  .next (readOp (Instr.lda m).desc m.source (fun v s => (s.setA v).setNZ v) s)

/-- LDX (R211). -/
def execLdx (m : LdxMode) (s : State) : Result :=
  .next (readOp (Instr.ldx m).desc m.source (fun v s => (s.setX v).setNZ v) s)

/-- LDY (R212). -/
def execLdy (m : LdyMode) (s : State) : Result :=
  .next (readOp (Instr.ldy m).desc m.source (fun v s => (s.setY v).setNZ v) s)

/-- STA (R213). -/
def execSta (m : MemMode) (s : State) : Result :=
  .next (storeOp (Instr.sta m).desc m.form State.a s)

/-- STX (R214). -/
def execStx (m : StxMode) (s : State) : Result :=
  .next (storeOp (Instr.stx m).desc m.form State.x s)

/-- STY (R215). -/
def execSty (m : StyMode) (s : State) : Result :=
  .next (storeOp (Instr.sty m).desc m.form State.y s)

/-- TAX (R216). -/
def execTax (s : State) : Result :=
  .next (impliedOp Instr.tax.desc (fun s => (s.setX s.a).setNZ s.a) s)

/-- TAY (R217). -/
def execTay (s : State) : Result :=
  .next (impliedOp Instr.tay.desc (fun s => (s.setY s.a).setNZ s.a) s)

/-- TSX (R218). -/
def execTsx (s : State) : Result :=
  .next (impliedOp Instr.tsx.desc (fun s => (s.setX s.sp).setNZ s.sp) s)

/-- TXA (R219). -/
def execTxa (s : State) : Result :=
  .next (impliedOp Instr.txa.desc (fun s => (s.setA s.x).setNZ s.x) s)

/-- TXS (R220): the only transfer that leaves N and Z alone. -/
def execTxs (s : State) : Result :=
  .next (impliedOp Instr.txs.desc (fun s => s.setSP s.x) s)

/-- TYA (R221). -/
def execTya (s : State) : Result :=
  .next (impliedOp Instr.tya.desc (fun s => (s.setA s.y).setNZ s.y) s)

end Sys2Proof.Machine
end

