-- ==== Sys2Proof/Machine/Shift.lean ====
section
/-! DEFINITION. Shifts and rotates (44_shift_rotate R270–R274). -/

namespace Sys2Proof.Machine

/-- ASL (R270). -/
def execAsl (m : ShiftMode) (s : State) : Result :=
  .next (rmwOp (Instr.asl m).desc m.target shiftLeft s)

/-- LSR (R271). -/
def execLsr (m : ShiftMode) (s : State) : Result :=
  .next (rmwOp (Instr.lsr m).desc m.target shiftRight s)

/-- ROL (R272). -/
def execRol (m : ShiftMode) (s : State) : Result :=
  .next (rmwOp (Instr.rol m).desc m.target rotateLeft s)

/-- ROR (R273). -/
def execRor (m : ShiftMode) (s : State) : Result :=
  .next (rmwOp (Instr.ror m).desc m.target rotateRight s)

end Sys2Proof.Machine
end

