-- ==== Sys2Proof/Machine/Stack.lean ====
section
/-! DEFINITION. Stack instructions (42_stack R231–R234). -/

namespace Sys2Proof.Machine

/-- PHA (R231). -/
def execPha (s : State) : Result :=
  .next (impliedOp Instr.pha.desc (fun s => s.push s.a) s)

/-- PHP (R232): the pushed byte has B and U set; P keeps B = 0. -/
def execPhp (s : State) : Result :=
  .next (impliedOp Instr.php.desc (fun s => s.push (pushedStatus s.p)) s)

/-- PLP (R233): B forced to 0, U to 1. -/
def execPlp (s : State) : Result :=
  .next (impliedOp Instr.plp.desc (fun s => s.pull.2.setP (pulledStatus s.pull.1)) s)

/-- PLA (R234). -/
def execPla (s : State) : Result :=
  .next (impliedOp Instr.pla.desc (fun s => (s.pull.2.setA s.pull.1).setNZ s.pull.1) s)

end Sys2Proof.Machine
end

