-- ==== Sys2Proof/Machine/Undocumented.lean ====
section
/-! DEFINITION. Undocumented opcodes (47_undocumented R310–R313). No rule gives their conventional operation;
`ILLEGAL_MODE` chooses between the refusal mark (R310) and the flagged no-op (R311). -/

namespace Sys2Proof.Machine

/-- An undocumented opcode other than KIL. Under `Refuse` only the mark `refused` changes (R310). Under
`StubNop` PC advances by the length, the base cycles are added without a bonus, and `stubbed` is set; the
operand bytes were read by the fetch (R311). -/
def undocumentedOp (d : Desc) (s : State) : State :=
  match s.params.illegalMode with
  | .refuse => s.refuse
  | .stubNop => ((s.advance d).addCycles d.baseCycles).markStubbed

/-- KIL (R313): refused under both policies, as R310 gives it. The opcode byte makes no difference. -/
def execKil (_op : Byte) (s : State) : Result := .next s.refuse

/-- SLO (R310, R311, R312). -/
def execSlo (m : MemMode) (s : State) : Result :=
  .next (undocumentedOp (Instr.slo m).desc s)

/-- RLA (R310, R311, R312). -/
def execRla (m : MemMode) (s : State) : Result :=
  .next (undocumentedOp (Instr.rla m).desc s)

/-- SRE (R310, R311, R312). -/
def execSre (m : MemMode) (s : State) : Result :=
  .next (undocumentedOp (Instr.sre m).desc s)

/-- RRA (R310, R311, R312). -/
def execRra (m : MemMode) (s : State) : Result :=
  .next (undocumentedOp (Instr.rra m).desc s)

/-- DCP (R310, R311, R312). -/
def execDcp (m : MemMode) (s : State) : Result :=
  .next (undocumentedOp (Instr.dcp m).desc s)

/-- ISC (R310, R311, R312). -/
def execIsc (m : MemMode) (s : State) : Result :=
  .next (undocumentedOp (Instr.isc m).desc s)

/-- SAX (R310, R311, R312). -/
def execSax (m : SaxMode) (s : State) : Result :=
  .next (undocumentedOp (Instr.sax m).desc s)

/-- LAX (R310, R311, R312). -/
def execLax (m : LaxMode) (s : State) : Result :=
  .next (undocumentedOp (Instr.lax m).desc s)

/-- ANC (R310, R311, R312). -/
def execAnc (op i : Byte) (s : State) : Result :=
  .next (undocumentedOp (Instr.anc op i).desc s)

/-- ALR (R310, R311, R312). -/
def execAlr (i : Byte) (s : State) : Result :=
  .next (undocumentedOp (Instr.alr i).desc s)

/-- ARR (R310, R311, R312). -/
def execArr (i : Byte) (s : State) : Result :=
  .next (undocumentedOp (Instr.arr i).desc s)

/-- XAA (R310, R311, R312). -/
def execXaa (i : Byte) (s : State) : Result :=
  .next (undocumentedOp (Instr.xaa i).desc s)

/-- AXS (R310, R311, R312). -/
def execAxs (i : Byte) (s : State) : Result :=
  .next (undocumentedOp (Instr.axs i).desc s)

/-- AHX (R310, R311, R312). -/
def execAhx (m : AhxMode) (s : State) : Result :=
  .next (undocumentedOp (Instr.ahx m).desc s)

/-- SHY (R310, R311, R312). -/
def execShy (w : Word) (s : State) : Result :=
  .next (undocumentedOp (Instr.shy w).desc s)

/-- SHX (R310, R311, R312). -/
def execShx (w : Word) (s : State) : Result :=
  .next (undocumentedOp (Instr.shx w).desc s)

/-- TAS (R310, R311, R312). -/
def execTas (w : Word) (s : State) : Result :=
  .next (undocumentedOp (Instr.tas w).desc s)

/-- LAS (R310, R311, R312). -/
def execLas (w : Word) (s : State) : Result :=
  .next (undocumentedOp (Instr.las w).desc s)

/-- The undocumented NOP variants (R310, R311, R312). -/
def execNopU (op : Byte) (e : Extra) (s : State) : Result :=
  .next (undocumentedOp (Instr.nopU op e).desc s)

/-- The undocumented SBC (EB) (R310, R311, R312). -/
def execSbcU (i : Byte) (s : State) : Result :=
  .next (undocumentedOp (Instr.sbcU i).desc s)

end Sys2Proof.Machine
end

