-- ==== Sys2Proof/Machine/Engine.lean ====
section
/-! DEFINITION. One iteration of the CPU engine (40_engine R170) around `exec`: the stall block, the IRQ line,
the interrupt check, the fetch; and the orchestrator around the iteration: `run`, `run_frame`, reset and
the ROM load (70_reset R460–R470, 52_cartridge R408). -/

namespace Sys2Proof.Machine

/-! ### Sub-steps 1 to 4 of an iteration -/

/-- The stall block (40_engine R171). -/
def State.stallBlock (s : State) : State := { s with cycles := s.cycles + s.stall, stall := 0 }

/-- One look at `IRQ_LINE` at the instruction boundary (60_exceptions R437): a request is kept only if
nothing is pending. -/
def State.sampleIrq (s : State) : State :=
  match s.irqLine with
  | [] => s
  | request :: rest =>
    { s with
      irqLine := rest
      pending := if request && s.pending == .none then .irq else s.pending }

/-- The interrupt check (60_exceptions R439). -/
def State.interruptCheck (s : State) : State :=
  match s.pending with
  | .nmi => s.enterInterrupt nmiVector
  | .irq => if flagI s.p then s else s.enterInterrupt irqVector
  | .none => s

/-- How many operand bytes the fetch reads for an opcode (40_engine R172, 47_undocumented R310, R311): none
for an opcode that is about to be refused. -/
def State.fetchCount (s : State) (op : Byte) : Nat :=
  if (desc op).documented then (desc op).mode.operandBytes
  else
    match s.params.illegalMode with
    | .refuse => 0
    | .stubNop => if kilOpcodes.contains op then 0 else (desc op).length - 1

/-- The fetch of the opcode and then of its operand bytes in address order (40_engine R172): the instruction
and the state after the reads. An operand byte that is not read is taken as 0x00 (log 14). -/
def State.fetch (s : State) : Instr × State :=
  let op := s.read s.pc
  match op.2.fetchCount op.1 with
  | 0 => (decodeOp op.1 0 0, op.2)
  | 1 =>
    let b1 := op.2.read (s.pc + 1)
    (decodeOp op.1 b1.1 0, b1.2)
  | _ =>
    let b1 := op.2.read (s.pc + 1)
    let b2 := b1.2.read (s.pc + 2)
    (decodeOp op.1 b1.1 b2.1, b2.2)

/-- The state in which an iteration fetches: after the stall block, the IRQ line and the interrupt check. -/
def State.beforeFetch (s : State) : State := s.stallBlock.sampleIrq.interruptCheck

/-- One iteration of the engine, `step()` of R170, in a state that has one. -/
def iteration (s : State) : Result := exec s.beforeFetch.fetch.1 s.beforeFetch.fetch.2

/-- One iteration, if the state has one: not without a cartridge (52_cartridge R408), not once `refused`
(10_state R43). -/
def engineStep (s : State) : Result :=
  if s.refused then .refused .alreadyRefused
  else
    match s.cart with
    | none => .fault .noCartridge
    | some _ => iteration s

/-! ### The orchestrator -/

/-- `frame_ready <- false`, by the orchestrator (70_reset R470). -/
def State.clearFrameReady (s : State) : State := { s with ppu := { s.ppu with frameReady := false } }

/-- The start of a `run` call where none is open: `start` is the cycle counter; between two calls of
`run(RUN_BUDGET)` `run_frame` has cleared `frame_ready` (70_reset R466, R470; log 9). -/
def State.openRun (s : State) : State :=
  match s.runStart with
  | some _ => s
  | none => { s.clearFrameReady with runStart := some s.cycles }

/-- Whether the open `run` call ends here: refused, or the budget is spent (70_reset R466). -/
def State.runEnds (s : State) : Bool :=
  match s.runStart with
  | none => false
  | some start => s.refused || decide (s.params.runBudget ≤ s.cycles - start)

/-- The end of a `run` call: the closing catch-up (70_reset R466). -/
def State.closeRun (s : State) : State :=
  if s.runEnds then { s.catchUp with runStart := none } else s

/-- A host operation starts only while no other is running: in a state whose `run` call is open it is refused
(70_reset R463, 93 row 8; log 18). -/
def State.hostOp {α : Type} (s : State) (op : Host.Outcome α Fault Refusal) : Host.Outcome α Fault Refusal :=
  match s.runStart with
  | some _ => .refused .reentrantCall
  | none => op

/-- `step()` as the loop of `run` calls it: it "runs only if `refused` is false" (40_engine R170), and leaves a
refused state as it is. -/
def runIteration (s : State) : Result := if s.refused then .next s else engineStep s

/-- The loop of `run(budget)` begun at cycle `start`, with its closing catch-up (70_reset R466), for at most
`fuel` iterations. -/
def runLoop (budget start : Nat) : Nat → State → Result
  | 0, _ => .fault .loopBound
  | fuel + 1, s =>
    match runIteration s with
    | .next t =>
      if t.refused || decide (budget ≤ t.cycles - start) then .next t.catchUp
      else runLoop budget start fuel t
    | .fault f => .fault f
    | .refused r => .refused r

/-- `run(budget)` once it is started: `cycles_executed` and the state. Every iteration that does not refuse takes
two cycles or more, so `budget + 1` of them are enough (log 16). -/
def runCall (budget : Nat) (s : State) : Host.Outcome (Nat × State) Fault Refusal :=
  match s.cart with
  | none => .fault .noCartridge
  | some _ =>
    match runLoop budget s.cycles (budget + 1) s with
    | .next t => .next (t.cycles - s.cycles, t)
    | .fault f => .fault f
    | .refused r => .refused r

/-- `run(cycle_budget) -> cycles_executed` (70_reset R466): at least one iteration, then until the budget is spent
or the state is refused; then the catch-up. It has no step without a cartridge (52_cartridge R408). -/
def run (budget : Nat) (s : State) : Host.Outcome (Nat × State) Fault Refusal := s.hostOp (runCall budget s)

/-- How many calls of `run` one `run_frame` can take: a frame has 89,342 ticks (51_ppu R362) and every call
replays some (log 16). -/
def frameBound : Nat := 89342

/-- The loop of `run_frame()`, for at most `fuel` calls of `run` (70_reset R470). -/
def runFrameLoop : Nat → State → Result
  | 0, _ => .fault .loopBound
  | fuel + 1, s =>
    match runCall s.params.runBudget s with
    | .next (_, t) => if t.ppu.frameReady || t.refused then .next t else runFrameLoop fuel t
    | .fault f => .fault f
    | .refused r => .refused r

/-- `run_frame()` (70_reset R470): calls of `run(RUN_BUDGET)` until a frame is ready or the state is refused. -/
def runFrame (s : State) : Result := s.hostOp (runFrameLoop frameBound s.clearFrameReady)

/-! ### Reset and load -/

/-- Every piece of state but PC at its reset value (10_state R60), before the vector is read. The cartridge,
its CHR RAM, the parameters and the outside world are not changed. -/
def State.powerOn (s : State) : State :=
  { State.reset with
    ram := Mem.ofCells 2048 s.params.initialRam
    ppu := { Ppu.reset with
      dot := s.params.resetDot
      scanline := s.params.resetScanline
      delivered := s.ppu.delivered }
    cart := s.cart
    params := s.params
    irqLine := s.irqLine
    inputs := s.inputs
    inputCalls := s.inputCalls }

/-- The reset operation (70_reset R460); it has no step without a cartridge (52_cartridge R408), and does not start
inside an open `run` call (R463). -/
def State.resetOp (s : State) : Result :=
  s.hostOp
    (match s.cart with
    | none => .fault .noCartridge
    | some _ =>
      let r := s.powerOn.read16 resetVector
      .next (r.2.setPC r.1))

/-- The ROM load on the console (52_cartridge R401, R408): the RomError it returns, if any, and the state. A failed
load leaves no cartridge, a successful one replaces it; the rest of the state is as it was. It does not start
inside an open `run` call (70_reset R463). -/
def State.loadImage (s : State) (image : Option (List Byte)) :
    Host.Outcome (Option RomError × State) Fault Refusal :=
  s.hostOp
    (match loadCartridge image with
    | .ok c => .next (none, { s with cart := some c })
    | .error e => .next (some e, { s with cart := none }))

end Sys2Proof.Machine
end

