-- ==== Sys2Proof/Machine/Step.lean ====
section
/-! DEFINITION. One step of the whole machine, and an instruction placed where the next step fetches. -/

namespace Sys2Proof.Machine

/-- One step of the machine: one engine iteration inside the orchestrator's `run(RUN_BUDGET)` calls. It opens
a `run` call where none is open, runs one iteration (40_engine R170), and closes the call with its catch-up
where its budget is spent (70_reset R466). With the default budget of 1 every step ends with a catch-up. -/
def step (s : State) : Host.Outcome State Fault Refusal :=
  match engineStep s.openRun with
  | .next t => .next t.closeRun
  | .fault f => .fault f
  | .refused r => .refused r

/-- A cartridge with one 16 KB PRG bank of zeros and CHR RAM, for an instruction to be placed in. -/
def blankCartridge : Cartridge where
  prg := []
  prgMask := 0x3FFF
  chr := []
  chrMask := 0x1FFF
  chrIsRam := true
  mirroring := .horizontal
  mapper := 0

/-- Where an instruction is placed: at PC if its bytes fit there in PRG space, else at 0x8000. -/
def placeAt (pc : Word) : Word := if 0x8000 ≤ pc.toNat ∧ pc.toNat ≤ 0xFFFD then pc else 0x8000

/-- A cartridge with the longest instruction's three bytes, from the bits `w`, put at `addr`. -/
def Cartridge.place (c : Cartridge) (addr : Word) (nbits w : Nat) : Cartridge :=
  let at' := fun k => (addr.toNat - 0x8000 + k) &&& c.prgMask
  { c with prg := ((c.prg.write (at' 0) (tableByte nbits w 0)).write (at' 1)
      (tableByte nbits w 1)).write (at' 2) (tableByte nbits w 2) }

/-- The state with that instruction where `step` fetches its next one: in the PRG of the loaded cartridge, or
of a blank one where none is loaded (it stands for the ROM load, log 7), PC on it, and nothing that would
take the fetch elsewhere (a pending interrupt, an IRQ request, the `refused` mark). -/
def State.withFetchWord (s : State) (nbits w : Nat) : State :=
  { s with
    cart := some ((s.cart.getD blankCartridge).place (placeAt s.pc) nbits w)
    pc := placeAt s.pc
    pending := .none
    irqLine := []
    refused := false }

end Sys2Proof.Machine
end

