-- ==== Sys2Proof/Safety.lean ====
section
/-! DEFINITION. What counts as a good state and as the end of a program, in the terms the claims use: the
machine's invariant (10_state R34, R35, R45, R51–R57; 60_exceptions R435), a run free of opcodes without a
meaning (10_state R43, R44), and the end of a program (70_reset R472). -/

namespace Sys2Proof.Machine

/-- A canonical memory whose addresses are all below `n`. -/
abbrev Mem.good (m : Mem) (n : Nat) : Prop := m.wf ∧ ∀ c ∈ m, c.1 < n

/-- A palette address that is an alias of a lower one, and so never an entry of its own (20_memory R114). -/
def paletteAlias (k : Nat) : Bool := decide (16 ≤ k) && k % 4 == 0

/-- The picture processor's invariant. -/
structure Ppu.Inv (params : Params) (p : Ppu) : Prop where
  /-- The position stays on the grid (R45). -/
  dot : p.dot ≤ 340
  scanline : p.scanline ≤ 261
  /-- At most eight active sprites, each of an OAM index (R51). -/
  sprCount : p.sprCount ≤ 8
  slots : ∀ s ∈ p.slots.toList, s.index < 64
  /-- Every memory is canonical and inside its size (R49, R54). -/
  oam : p.oam.good 256
  ciram : p.ciram.good 2048
  palette : p.palette.good 32
  frame : p.frame.good 61440
  /-- No palette alias holds an entry of its own (20_memory R114). -/
  aliases : ∀ c ∈ p.palette, paletteAlias c.1 = false
  /-- The frame buffer holds 6-bit palette indices (51_ppu R382). -/
  pixels : ∀ c ∈ p.frame, c.2.toNat < 64
  /-- The edge detector knows the line's current value (60_exceptions R435). -/
  line : p.nmiPrevious = p.nmiLine
  /-- No delivery is further off than the delay (60_exceptions R435, R436). -/
  delay : p.nmiDelay ≤ params.nmiDelayTicks

/-- A cartridge's invariant: canonical memories inside their masks (52_cartridge R405, R406). -/
structure Cartridge.Inv (c : Cartridge) : Prop where
  prg : c.prg.good (c.prgMask + 1)
  chr : c.chr.good (c.chrMask + 1)

/-- The machine's invariant. -/
structure State.Inv (s : State) : Prop where
  /-- U holds 1 at all times (R34). -/
  u : flagU s.p = true
  /-- B holds 0 at all times (R35). -/
  b : flagB s.p = false
  ram : s.ram.good 2048
  ppu : s.ppu.Inv s.params
  cart : ∀ c, s.cart = some c → c.Inv
  /-- `last_synced ≤ cycles` (R53). -/
  synced : s.ppu.lastSynced ≤ s.cycles

/-- A run up to here is a claim about the chip: no opcode without a meaning was fetched, and none ran as a
stub (10_state R43, R44). -/
def State.faithful (s : State) : Bool := !s.refused && !s.stubbed

/-- The condition of a branch opcode on P, where the opcode is one (45_control R286–R293). -/
def branchCondition (op p : Byte) : Option Bool :=
  if op = 0x90 then some (!flagC p)
  else if op = 0xB0 then some (flagC p)
  else if op = 0xF0 then some (flagZ p)
  else if op = 0x30 then some (flagN p)
  else if op = 0xD0 then some (!flagZ p)
  else if op = 0x10 then some (!flagN p)
  else if op = 0x50 then some (!flagV p)
  else if op = 0x70 then some (flagV p)
  else none

/-- The end of a program at address `e` (70_reset R472): PC is `e`, and there stands a jump to itself or a
branch to itself whose condition holds. A refused state is never an end. -/
def State.atProgramEnd (s : State) (e : Word) : Bool :=
  !s.refused && s.pc == e &&
    ((s.memByte e == 0x4C && mkWord (s.memByte (e + 2)) (s.memByte (e + 1)) == e) ||
      (branchCondition (s.memByte e) s.p == some true && s.memByte (e + 1) == 0xFE))

end Sys2Proof.Machine
end

