-- ==== Sys2Proof/Certificates/Slice0/Obligations.lean ====
section
/-! DEFINITION. The statements for the provers. The first part says the spec's formulas again in their own
terms (Sys2Proof.Claims); each Obligations.<Name> then says what the machine does. -/

namespace Sys2Proof.Claims

open Machine

/-! ### Flags as masks of P (10_state R33) -/

/-- Bits N and Z of `set_nz(v)`. -/
def nz (v : Byte) : Byte := (v &&& 0x80) ||| (if v = 0 then 0x02 else 0x00)

/-- P after `set_nz(v)`: N and Z replaced, the other six bits kept. -/
def withNZ (p v : Byte) : Byte := (p &&& 0x7D) ||| nz v

/-- Bit `k` of P as given. -/
def flag (k : Nat) (b : Bool) : Byte := if b then (1 : Byte) <<< k else 0

/-- P after an operation that writes N, Z and C. -/
def withNZC (p v : Byte) (c : Bool) : Byte := (p &&& 0x7C) ||| nz v ||| flag 0 c

/-- P after an operation that writes N, V, Z and C. -/
def withNVZC (p v : Byte) (overflow c : Bool) : Byte := (p &&& 0x3C) ||| nz v ||| flag 6 overflow ||| flag 0 c

/-! ### Addressing modes (40_engine R179, R186–R194, 70_reset R485) -/

/-- The pointer at zero-page address `z`: the high byte comes from `(z + 1) mod 256`. -/
def zeroPageWord (s : State) (z : Byte) : Word :=
  mkWord (s.ram.read (z + 1).toNat) (s.ram.read z.toNat)

/-- The address a mode indexes from. -/
def base (f : AddrForm) (s : State) : Word :=
  match f with
  | .zp z => z.setWidth 16
  | .zpx z => (z + s.x).setWidth 16
  | .zpy z => (z + s.y).setWidth 16
  | .abs w | .abx w | .aby w => w
  | .izx z => zeroPageWord s (z + s.x)
  | .izy z => zeroPageWord s z

/-- The effective address of a mode. -/
def ea (f : AddrForm) (s : State) : Word :=
  match f with
  | .abx _ => base f s + s.x.setWidth 16
  | .aby _ | .izy _ => base f s + s.y.setWidth 16
  | _ => base f s

/-- `crossed`: the high bytes of base and effective address differ. -/
def crossed (f : AddrForm) (s : State) : Bool := (base f s &&& 0xFF00) != (ea f s &&& 0xFF00)

/-- Instruction length of a mode with an address. -/
def addrLength : AddrForm → Word
  | .abs _ | .abx _ | .aby _ => 3
  | _ => 2

/-- Cycles of a read instruction in a mode. -/
def readTime (f : AddrForm) (s : State) : Nat :=
  match f with
  | .zp _ => 3
  | .zpx _ | .zpy _ | .abs _ => 4
  | .abx _ | .aby _ => if crossed f s then 5 else 4
  | .izx _ => 6
  | .izy _ => if crossed f s then 6 else 5

/-- Cycles of a store in a mode. -/
def storeTime : AddrForm → Nat
  | .zp _ => 3
  | .zpx _ | .zpy _ | .abs _ => 4
  | .abx _ | .aby _ => 5
  | .izx _ | .izy _ => 6

/-- Cycles of a read-modify-write in a mode it has. -/
def rmwTime : AddrForm → Nat
  | .zp _ => 5
  | .zpx _ | .abs _ => 6
  | _ => 7

/-- The operand of a read instruction, and the state after its one read. -/
def operand (o : Source) (s : State) : Byte × State :=
  match o with
  | .imm i => (i, s)
  | .mem f => s.read (ea f s)

def sourceLength : Source → Word
  | .imm _ => 2
  | .mem f => addrLength f

def sourceTime (o : Source) (s : State) : Nat :=
  match o with
  | .imm _ => 2
  | .mem f => readTime f s

/-- The state after a read instruction has read its operand, moved PC and counted its cycles. -/
def afterRead (o : Source) (s : State) : State :=
  { (operand o s).2 with pc := s.pc + sourceLength o, cycles := s.cycles + sourceTime o s }

/-- The state after a store of `v`. -/
def afterStore (f : AddrForm) (v : Byte) (s : State) : State :=
  { s.write (ea f s) v with pc := s.pc + addrLength f, cycles := s.cycles + storeTime f }

/-- The operand of a memory read-modify-write, and the state after its reads: the dummy read at the
pre-cross address (R182), then the operand. -/
def rmwOperand (f : AddrForm) (s : State) : Byte × State :=
  match f with
  | .abx _ =>
    if crossed f s then (s.read ((base f s &&& 0xFF00) ||| (ea f s &&& 0x00FF))).2.read (ea f s)
    else s.read (ea f s)
  | _ => s.read (ea f s)

/-- The state after a read-modify-write whose result and P are `f` of the operand. -/
def afterRmw (t : Target) (f : Byte → Byte × Byte) (s : State) : State :=
  match t with
  | .acc => { s with a := (f s.a).1, p := (f s.a).2, pc := s.pc + 1, cycles := s.cycles + 2 }
  | .mem m =>
    let l := rmwOperand m s
    { l.2.write (ea m s) (f l.1).1 with
      p := (f l.1).2, pc := s.pc + addrLength m, cycles := s.cycles + rmwTime m }

/-- The state after an instruction without an operand, of one byte. -/
def implied (n : Nat) (s : State) : State := { s with pc := s.pc + 1, cycles := s.cycles + n }

/-! ### Opcode columns: the opcode of a mode is the mnemonic's first opcode plus this (30_encoding R144) -/

def aluColumn : ReadMode → Byte
  | .izx _ => 0x01 | .zp _ => 0x05 | .imm _ => 0x09 | .abs _ => 0x0D
  | .izy _ => 0x11 | .zpx _ => 0x15 | .aby _ => 0x19 | .abx _ => 0x1D

def staColumn : MemMode → Byte
  | .izx _ => 0x01 | .zp _ => 0x05 | .abs _ => 0x0D
  | .izy _ => 0x11 | .zpx _ => 0x15 | .aby _ => 0x19 | .abx _ => 0x1D

/-- The columns of SLO, RLA, SRE, RRA, DCP and ISC (R147). -/
def rmwUColumn : MemMode → Byte
  | .izx _ => 0x03 | .zp _ => 0x07 | .abs _ => 0x0F
  | .izy _ => 0x13 | .zpx _ => 0x17 | .aby _ => 0x1B | .abx _ => 0x1F

def shiftColumn : ShiftMode → Byte
  | .zp _ => 0x06 | .acc => 0x0A | .abs _ => 0x0E | .zpx _ => 0x16 | .abx _ => 0x1E

def incColumn : IncMode → Byte
  | .zp _ => 0x06 | .abs _ => 0x0E | .zpx _ => 0x16 | .abx _ => 0x1E

def ldxColumn : LdxMode → Byte
  | .imm _ => 0x02 | .zp _ => 0x06 | .abs _ => 0x0E | .zpy _ => 0x16 | .aby _ => 0x1E

def ldyColumn : LdyMode → Byte
  | .imm _ => 0x00 | .zp _ => 0x04 | .abs _ => 0x0C | .zpx _ => 0x14 | .abx _ => 0x1C

def stxColumn : StxMode → Byte
  | .zp _ => 0x06 | .abs _ => 0x0E | .zpy _ => 0x16

def styColumn : StyMode → Byte
  | .zp _ => 0x04 | .abs _ => 0x0C | .zpx _ => 0x14

def cpxColumn : CpxMode → Byte
  | .imm _ => 0x00 | .zp _ => 0x04 | .abs _ => 0x0C

def bitColumn : BitMode → Byte
  | .zp _ => 0x04 | .abs _ => 0x0C

/-! ### ALU formulas (43_alu, 44_shift_rotate) -/

/-- ADC: `A + M + C`, 0 to 511. -/
def adcSum (a m p : Byte) : Nat := a.toNat + m.toNat + (p &&& 0x01).toNat

/-- ADC's A and P. -/
def adc (a m p : Byte) : Byte × Byte :=
  let r : Byte := BitVec.ofNat 8 (adcSum a m p)
  (r, withNVZC p r ((~~~(a ^^^ m) &&& (a ^^^ r)) &&& 0x80 != 0) (decide (256 ≤ adcSum a m p)))

/-- SBC: `A - M - (1 - C)`, -256 to 255. -/
def sbcDiff (a m p : Byte) : Int := (a.toNat : Int) - m.toNat - (1 - ((p &&& 0x01).toNat : Int))

/-- SBC's A and P. -/
def sbc (a m p : Byte) : Byte × Byte :=
  let r : Byte := BitVec.ofInt 8 (sbcDiff a m p)
  (r, withNVZC p r ((a ^^^ m) &&& (a ^^^ r) &&& 0x80 != 0) (decide (0 ≤ sbcDiff a m p)))

/-- P after a compare of `reg` with `m`: Z exactly when they are equal, N is bit 7 of the difference. -/
def cmp (reg m p : Byte) : Byte := withNZC p (reg - m) (decide (m.toNat ≤ reg.toNat))

/-- P after BIT. -/
def bit (a m p : Byte) : Byte := (p &&& 0x3D) ||| (m &&& 0xC0) ||| flag 1 (a &&& m == 0)

def inc (p m : Byte) : Byte × Byte := (m + 1, withNZ p (m + 1))
def dec (p m : Byte) : Byte × Byte := (m - 1, withNZ p (m - 1))
def asl (p m : Byte) : Byte × Byte := (m + m, withNZC p (m + m) (decide (128 ≤ m.toNat)))
def lsr (p m : Byte) : Byte × Byte :=
  (BitVec.ofNat 8 (m.toNat / 2), withNZC p (BitVec.ofNat 8 (m.toNat / 2)) (m &&& 0x01 != 0))
def rol (p m : Byte) : Byte × Byte :=
  let r := m + m + (p &&& 0x01)
  (r, withNZC p r (decide (128 ≤ m.toNat)))
def ror (p m : Byte) : Byte × Byte :=
  let r := BitVec.ofNat 8 (m.toNat / 2 + 128 * (p &&& 0x01).toNat)
  (r, withNZC p r (m &&& 0x01 != 0))

/-! ### The stack (42_stack R230) -/

/-- The RAM cell `0x0100 | SP`. -/
def cell (sp : Byte) : Nat := 256 + sp.toNat

/-- The byte a pull reads when SP is one less than `sp`. -/
def top (s : State) (k : Byte) : Byte := s.ram.read (cell (s.sp + k))

/-- RAM after pushes of the bytes, in order, from SP down. -/
def pushedRam (ram : Mem) (sp : Byte) : List Byte → Mem
  | [] => ram
  | v :: vs => pushedRam (ram.write (cell sp) v) (sp - 1) vs

/-- The 16-bit word of cartridge memory at `a` (60_exceptions R441). -/
def vector (s : State) (a : Word) : Word := mkWord (cartReadPrg s.cart (a + 1)) (cartReadPrg s.cart a)

/-- A branch (45_control R285). -/
def branch (taken : Bool) (o : Byte) (s : State) : State :=
  let next := s.pc + 2
  let target := next + o.signExtend 16
  if taken then
    { s with
      pc := target
      cycles := s.cycles + if target &&& 0xFF00 = next &&& 0xFF00 then 3 else 4 }
  else { s with pc := next, cycles := s.cycles + 2 }

/-! ### Undocumented opcodes (47_undocumented R311, R312) -/

/-- The flagged no-op. -/
def stub (length : Word) (n : Nat) (s : State) : State :=
  { s with pc := s.pc + length, cycles := s.cycles + n, stubbed := true }

/-- The conventional cycles of SLO, RLA, SRE, RRA, DCP and ISC. -/
def rmwUTime : AddrForm → Nat
  | .zp _ => 5
  | .zpx _ | .abs _ => 6
  | .abx _ | .aby _ => 7
  | _ => 8

def saxForm : SaxMode → AddrForm
  | .zp z => .zp z | .zpy z => .zpy z | .abs w => .abs w | .izx z => .izx z

def saxTime : SaxMode → Nat
  | .zp _ => 3 | .zpy _ => 4 | .abs _ => 4 | .izx _ => 6

def laxLength : LaxMode → Word
  | .abs _ | .aby _ => 3
  | _ => 2

def laxTime : LaxMode → Nat
  | .imm _ => 2 | .zp _ => 3 | .zpy _ => 4 | .abs _ => 4 | .aby _ => 4 | .izx _ => 6 | .izy _ => 5

def ahxLength : AhxMode → Word
  | .aby _ => 3 | .izy _ => 2

def ahxTime : AhxMode → Nat
  | .aby _ => 5 | .izy _ => 6

def extraLength : Extra → Word
  | .none => 1 | .byte _ => 2 | .word _ => 3

/-- The cycles of the undocumented NOPs: `imp` and `imm` 2, `zp` 3, `zpx`, `abs` and `abx` 4. -/
def nopTime (op : Byte) : Extra → Nat
  | .none => 2
  | .byte _ => if op &&& 0x1F = 0x04 then 3 else if op &&& 0x1F = 0x14 then 4 else 2
  | .word _ => 4

/-- The instructions of the 105 undocumented opcodes (30_encoding R146, R147). -/
def undocumented : Instr → Bool
  | .kil _ | .slo _ | .rla _ | .sre _ | .rra _ | .dcp _ | .isc _ | .sax _ | .lax _ | .anc _ _ | .alr _
  | .arr _ | .xaa _ | .axs _ | .ahx _ | .shy _ | .shx _ | .tas _ | .las _ | .nopU _ _ | .sbcU _ => true
  | _ => false

/-! ### What each instruction may write (10_state R30, R31, R36) -/

def writesA : Instr → Bool
  | .lda _ | .pla | .txa | .tya | .adc _ | .sbc _ | .and _ | .ora _ | .eor _ => true
  | .asl .acc | .lsr .acc | .rol .acc | .ror .acc => true
  | _ => false

def writesX : Instr → Bool
  | .ldx _ | .tax | .tsx | .inx | .dex => true
  | _ => false

def writesY : Instr → Bool
  | .ldy _ | .tay | .iny | .dey => true
  | _ => false

def writesSP : Instr → Bool
  | .txs | .pha | .php | .pla | .plp | .jsr _ | .rts | .rti | .brk => true
  | _ => false

/-- The bits of P an instruction may write: N 0x80, V 0x40, U 0x20, B 0x10, D 0x08, I 0x04, Z 0x02, C 0x01. -/
def flagsWritten : Instr → Byte
  | .adc _ | .sbc _ => 0xC3
  | .cmp _ | .cpx _ | .cpy _ | .asl _ | .lsr _ | .rol _ | .ror _ => 0x83
  | .bit _ => 0xC2
  | .lda _ | .ldx _ | .ldy _ | .tax | .tay | .tsx | .txa | .tya | .pla | .and _ | .ora _ | .eor _
  | .inc _ | .dec _ | .inx | .iny | .dex | .dey => 0x82
  | .clc | .sec => 0x01
  | .cli | .sei | .brk => 0x04
  | .cld | .sed => 0x08
  | .clv => 0x40
  | .plp | .rti => 0xFF
  | _ => 0x00

/-- The address of an operand in memory, resolved as the meaning resolves it: once PC has moved. -/
def targetAddr (i : Instr) (f : AddrForm) (s : State) : Word := (f.resolve (s.advance i.desc)).1.ea

def sourceAddr (i : Instr) (o : Source) (s : State) : List Word :=
  match o with
  | .imm _ => []
  | .mem f => [targetAddr i f s]

def rmwAddr (i : Instr) (t : Target) (s : State) : List Word :=
  match t with
  | .acc => []
  | .mem f => [targetAddr i f s]

/-- The addresses an instruction stores to. -/
def stored (i : Instr) (s : State) : List Word :=
  match i with
  | .sta m => [targetAddr i m.form s]
  | .stx m => [targetAddr i m.form s]
  | .sty m => [targetAddr i m.form s]
  | .asl m | .lsr m | .rol m | .ror m => rmwAddr i m.target s
  | .inc m | .dec m => rmwAddr i m.target s
  | .pha | .php => [stackAddr s.sp]
  | .jsr _ => [stackAddr s.sp, stackAddr (s.sp - 1)]
  | .brk => [stackAddr s.sp, stackAddr (s.sp - 1), stackAddr (s.sp - 2)]
  | _ => []

/-- The pre-cross address of a dummy read, where there is one. -/
def dummyAddr (i : Instr) (t : Target) (s : State) : List Word :=
  match t with
  | .acc => []
  | .mem f =>
    if (f.resolve (s.advance i.desc)).1.crossed then [(f.resolve (s.advance i.desc)).1.preCross] else []

/-- The addresses outside zero page, the stack and the vectors that an instruction's operation accesses. -/
def accessed (i : Instr) (s : State) : List Word :=
  match i with
  | .lda m | .adc m | .sbc m | .and m | .ora m | .eor m | .cmp m => sourceAddr i m.source s
  | .ldx m => sourceAddr i m.source s
  | .ldy m => sourceAddr i m.source s
  | .cpx m | .cpy m => sourceAddr i m.source s
  | .bit m => sourceAddr i m.source s
  | .sta m => [targetAddr i m.form s]
  | .stx m => [targetAddr i m.form s]
  | .sty m => [targetAddr i m.form s]
  | .asl m | .lsr m | .rol m | .ror m => dummyAddr i m.target s ++ rmwAddr i m.target s
  | .inc m | .dec m => dummyAddr i m.target s ++ rmwAddr i m.target s
  | .jmp (.ind w) => [w, samePageNext w]
  | _ => []

/-- An address outside memory: a device or an unmapped one. -/
def outside (a : Word) : Prop := 0x2000 ≤ a.toNat ∧ a.toNat < 0x6000

/-! ### The bus (20_memory) -/

/-- The DMA copy of R100: 256 bus reads in order, each byte into sprite memory at its cursor. -/
def dmaLoop (page : Byte) (s : State) : State :=
  (List.range 256).foldl (fun t i =>
    let r := t.read (mkWord page (BitVec.ofNat 8 i))
    { r.2 with ppu := { r.2.ppu with
        oam := r.2.ppu.oam.write r.2.ppu.oamAddr.toNat r.1, oamAddr := r.2.ppu.oamAddr + 1 } }) s

/-- The bits `n` reads of a controller port give, in order. -/
def portReads (addr : Word) : Nat → State → List Byte
  | 0, _ => []
  | n + 1, s => (s.read addr).1 :: portReads addr n (s.read addr).2

/-- The physical table of a quadrant (R113). -/
def table (mode : Mirroring) (four : Vector (Fin 2) 4) (q : Nat) : Nat :=
  match mode with
  | .horizontal => if q < 2 then 0 else 1
  | .vertical => q % 2
  | .single0 => 0
  | .single1 => 1
  | .fourScreen => if h : q < 4 then (four[q] : Fin 2).val else 0

/-- What byte of `ciram` a nametable address names: its table and its offset (R112). -/
def nametableByte (cart : Option Cartridge) (params : Params) (a : BitVec 14) : Nat × Nat :=
  (table (cartMirroring cart) params.fourScreenMap ((a.toNat - 0x2000) % 0x1000 / 0x400), a.toNat % 0x400)

/-- What palette entry a palette address names (R114). -/
def paletteEntry (a : BitVec 14) : Nat :=
  if a.toNat % 32 ≥ 16 ∧ a.toNat % 4 = 0 then a.toNat % 32 - 16 else a.toNat % 32

/-! ### The picture processor (51_ppu) -/

/-- The position as one number: how many ticks after scanline 0, dot 0. -/
def position (p : Ppu) : Nat := 341 * p.scanline + p.dot

/-- Whether sprite `n` is on the current scanline (R375). -/
def onLine (p : Ppu) (n : Nat) : Bool :=
  let y := (p.oam.read (4 * n)).toNat
  decide (y ≤ p.scanline) && decide (p.scanline < y + if p.ctrl &&& 0x20 = 0 then 8 else 16)

/-- The sprites on the current scanline in OAM order (R375). -/
def lineSprites (p : Ppu) : List Nat := (List.range 64).filter (onLine p)

/-- Rendering is enabled: bit 3 or bit 4 of `$2001` (50_ppu R324). -/
def rendering (p : Ppu) : Bool := p.mask &&& 0x18 != 0

/-- A line on which the sequencer renders: 0–239 or 261 (R364). -/
def renderLine (p : Ppu) : Bool := decide (p.scanline < 240) || p.scanline == 261

/-- A dot on which the background pipeline fetches: 1–256 or 321–336 (R364). -/
def fetchDot (p : Ppu) : Bool :=
  (decide (1 ≤ p.dot) && decide (p.dot ≤ 256)) || (decide (321 ≤ p.dot) && decide (p.dot ≤ 336))

/-- The address of a background pattern's low plane (R369). -/
def tileAddr (p : Ppu) : Nat :=
  (if p.ctrl &&& 0x10 = 0 then 0 else 0x1000) + 16 * p.ntByte.toNat + p.v.toNat / 0x1000

/-- The attribute address (R368). -/
def attributeAddr (v : Nat) : Nat := 0x23C0 ||| (v &&& 0x0C00) ||| ((v >>> 4) &&& 0x38) ||| ((v >>> 2) &&& 0x07)

/-- The address of a sprite's low plane at `row`, the vertical flip and the halves of a 16-row sprite applied
(R376). -/
def spriteAddr (p : Ppu) (n row : Nat) : Nat :=
  let tile := (p.oam.read (4 * n + 1)).toNat
  let flip := p.oam.read (4 * n + 2) &&& 0x80 ≠ 0
  if p.ctrl &&& 0x20 = 0 then
    (if p.ctrl &&& 0x08 = 0 then 0 else 0x1000) + 16 * tile + (if flip then 7 - row else row)
  else
    let r := if flip then 15 - row else row
    0x1000 * (tile % 2) + 16 * (tile / 2 * 2 + r / 8) + r % 8

/-- Pixel `i` from the left of sprite `n` at `row`: its palette number and the bits of its two planes, the
horizontal flip applied (R376). -/
def spriteBits (cart : Option Cartridge) (params : Params) (p : Ppu) (n row i : Nat) : BitVec 4 :=
  let attr := p.oam.read (4 * n + 2)
  let lo := p.busRead cart params (BitVec.ofNat 14 (spriteAddr p n row))
  let hi := p.busRead cart params (BitVec.ofNat 14 (spriteAddr p n row + 8))
  let k := if attr &&& 0x40 = 0 then 7 - i else i
  BitVec.ofNat 4 (4 * (attr.toNat % 4) + bitNat (lo.getLsbD k) + 2 * bitNat (hi.getLsbD k))

/-- The operand bytes an iteration reads after the opcode (R172; 47_undocumented R310, R311, R313): those of the
mode of a documented opcode; of an undocumented one none where it is refused, else all of its length. -/
def operandBytesRead (params : Params) (op : Byte) : Nat :=
  if (desc op).documented = true then (desc op).mode.operandBytes
  else if params.illegalMode = .refuse ∨
    op ∈ ([0x02, 0x12, 0x22, 0x32, 0x42, 0x52, 0x62, 0x72, 0x92, 0xB2, 0xD2, 0xF2] : List Byte) then 0
  else (desc op).length - 1

/-- A number of PRG or CHR banks the load accepts: a power of two (52_cartridge R401). -/
def bankCount (n : Nat) : Prop := ∃ k, n = 2 ^ k

end Sys2Proof.Claims

open Sys2Proof Sys2Proof.Machine

/-! ### Encoding -/

/-- Decoding an encoded instruction gives it back, and leaves what follows it: every operand at every value
(30_encoding R140–R142). BRK is encoded with a padding byte 0x00 (log 14). -/
def Obligations.DecodeOfEncode : Prop :=
  ∀ (i : Instr) (rest : List Byte), i.wellFormed = true → decode (encode i ++ rest) = .ok (i, rest)

/-- Whatever decodes is a well-formed instruction whose encoding is the bytes read; of BRK alone the byte
after the opcode, where there is one, may be anything (45_control R283). -/
def Obligations.EncodeOfDecode : Prop :=
  ∀ (bytes rest : List Byte) (i : Instr), decode bytes = .ok (i, rest) →
    i.wellFormed = true ∧
      (i ≠ .brk → bytes = encode i ++ rest) ∧
      (i = .brk → bytes = [0x00] ∧ rest = [] ∨ ∃ pad, bytes = 0x00 :: pad :: rest)

/-- A few words of each family, written out from the spec's encodings (30_encoding R144, R145). -/
def Obligations.SampleWordsDecode : Prop :=
  decode [0xA9, 0x80] = .ok (.lda (.imm 0x80), []) ∧
  decode [0x8D, 0x00, 0x02] = .ok (.sta (.abs 0x0200), []) ∧
  decode [0xB6, 0xFF] = .ok (.ldx (.zpy 0xFF), []) ∧
  decode [0x9A] = .ok (.txs, []) ∧
  decode [0x48] = .ok (.pha, []) ∧
  decode [0x71, 0x12] = .ok (.adc (.izy 0x12), []) ∧
  decode [0xE1, 0x34] = .ok (.sbc (.izx 0x34), []) ∧
  decode [0x2C, 0x02, 0x20] = .ok (.bit (.abs 0x2002), []) ∧
  decode [0x1E, 0xFF, 0x12] = .ok (.asl (.abx 0x12FF), []) ∧
  decode [0x6A] = .ok (.ror .acc, []) ∧
  decode [0x6C, 0xFF, 0x02] = .ok (.jmp (.ind 0x02FF), []) ∧
  decode [0x20, 0x00, 0x90] = .ok (.jsr 0x9000, []) ∧
  decode [0x00, 0x55, 0xEA] = .ok (.brk, [0xEA]) ∧
  decode [0x10, 0xF9] = .ok (.bpl 0xF9, []) ∧
  decode [0x78] = .ok (.sei, []) ∧
  decode [0xEA] = .ok (.nop, []) ∧
  decode [0x02] = .ok (.kil 0x02, []) ∧
  decode [0xAF, 0x34, 0x12] = .ok (.lax (.abs 0x1234), []) ∧
  decode [0x0C] = .error (.missingOperand 0x0C)

/-- Every one of the 256 opcode values has an entry: with two bytes after it, it decodes to a well-formed
instruction of that opcode; the opcode byte alone fixes the length; and 105 of the values are undocumented
(30_encoding R140, R146). -/
def Obligations.EveryOpcodeHasAnEntry : Prop :=
  (∀ (op b1 b2 : Byte) (rest : List Byte), ∃ i r,
    decode (op :: b1 :: b2 :: rest) = .ok (i, r) ∧ i.wellFormed = true ∧ i.opcode = op ∧
      r = (b1 :: b2 :: rest).drop ((desc op).length - 1) ∧
      ((desc op).documented = false ↔ Claims.undocumented i = true)) ∧
  ((List.range 256).filter (fun n => !(desc (BitVec.ofNat 8 n)).documented)).length = 105

/-- The three bonus columns of the descriptor table, for every documented opcode (40_engine R173): the
page-cross bonus is that of ADC, AND, CMP, EOR, LDA, ORA and SBC in abx, aby and izy, of LDX aby and of LDY
abx; the branch bonus is that of the eight branches; rmw is that of ASL, LSR, ROL, ROR, INC and DEC in a
memory mode. -/
def Obligations.DescriptorBonusColumns : Prop :=
  ∀ op : Byte, (desc op).documented = true →
    ((desc op).pageCross = true ↔ op ∈ ([0x7D, 0x79, 0x71, 0x3D, 0x39, 0x31, 0xDD, 0xD9, 0xD1, 0x5D, 0x59, 0x51,
      0xBD, 0xB9, 0xB1, 0x1D, 0x19, 0x11, 0xFD, 0xF9, 0xF1, 0xBE, 0xBC] : List Byte)) ∧
    ((desc op).branch = true ↔ op ∈ ([0x10, 0x30, 0x50, 0x70, 0x90, 0xB0, 0xD0, 0xF0] : List Byte)) ∧
    ((desc op).rmw = true ↔ op ∈ ([0x06, 0x16, 0x0E, 0x1E, 0x46, 0x56, 0x4E, 0x5E, 0x26, 0x36, 0x2E, 0x3E,
      0x66, 0x76, 0x6E, 0x7E, 0xE6, 0xF6, 0xEE, 0xFE, 0xC6, 0xD6, 0xCE, 0xDE] : List Byte))

/-! ### Addressing modes -/

/-- The effective address of every mode, with the zero-page sums wrapping in page 0 and the 16-bit sums mod
0x10000; resolving a mode changes nothing, since its pointers lie in zero page (40_engine R186–R188, R190,
R191, R193, R194). -/
def Obligations.AddressingModes : Prop :=
  ∀ (f : AddrForm) (s : State), f.resolve s = (⟨Claims.base f s, Claims.ea f s⟩, s)

/-- A pointer's high byte is read from the page of its low byte: from 0x00 of the page when the low byte
stands at its end, and as an ordinary 16-bit read otherwise (40_engine R180). In RAM the pointer is the word
of the two cells. -/
def Obligations.PointerReadStaysInPage : Prop :=
  ∀ (s : State) (p : Word),
    (p &&& 0x00FF ≠ 0x00FF → s.read16Bug p = s.read16 p) ∧
    (p &&& 0x00FF = 0x00FF → s.read16Bug p = s.readPair p (p - 255)) ∧
    (p.toNat < 0x2000 → s.read16Bug p =
      (mkWord (s.ram.read ((p.toNat / 256 * 256 + (p.toNat + 1) % 256) % 2048)) (s.ram.read (p.toNat % 2048)), s))

/-! ### What each documented instruction does, with its opcode, PC and cycles -/

/-- LDA, LDX, LDY, in every mode: one read of the operand; the register takes it; N and Z are set from it and the
other flags kept; PC moves by the length and `cycles` by the base and the page-cross bonus; nothing else
changes; and the opcode (41_load_store_transfer R210–R212). -/
def Obligations.LoadResults : Prop :=
  (∀ (m : ReadMode) (s : State),
    (Instr.lda m).opcode = 0xA0 + Claims.aluColumn m ∧
    exec (.lda m) s = .next { Claims.afterRead m.source s with
      a := (Claims.operand m.source s).1, p := Claims.withNZ s.p (Claims.operand m.source s).1 }) ∧
  (∀ (m : LdxMode) (s : State),
    (Instr.ldx m).opcode = 0xA0 + Claims.ldxColumn m ∧
    exec (.ldx m) s = .next { Claims.afterRead m.source s with
      x := (Claims.operand m.source s).1, p := Claims.withNZ s.p (Claims.operand m.source s).1 }) ∧
  (∀ (m : LdyMode) (s : State),
    (Instr.ldy m).opcode = 0xA0 + Claims.ldyColumn m ∧
    exec (.ldy m) s = .next { Claims.afterRead m.source s with
      y := (Claims.operand m.source s).1, p := Claims.withNZ s.p (Claims.operand m.source s).1 })

/-- AND, ORA, EOR, in every mode: A takes A and (or, exclusive-or) the operand, N and Z are set from it, and
the other flags kept; PC, cycles and opcode as for a load (43_alu R246–R248). -/
def Obligations.LogicResults : Prop :=
  ∀ (m : ReadMode) (s : State),
    (Instr.and m).opcode = 0x20 + Claims.aluColumn m ∧
    (exec (.and m) s = .next { Claims.afterRead m.source s with
      a := s.a &&& (Claims.operand m.source s).1
      p := Claims.withNZ s.p (s.a &&& (Claims.operand m.source s).1) }) ∧
    (Instr.ora m).opcode = Claims.aluColumn m ∧
    (exec (.ora m) s = .next { Claims.afterRead m.source s with
      a := s.a ||| (Claims.operand m.source s).1
      p := Claims.withNZ s.p (s.a ||| (Claims.operand m.source s).1) }) ∧
    (Instr.eor m).opcode = 0x40 + Claims.aluColumn m ∧
    (exec (.eor m) s = .next { Claims.afterRead m.source s with
      a := s.a ^^^ (Claims.operand m.source s).1
      p := Claims.withNZ s.p (s.a ^^^ (Claims.operand m.source s).1) })

/-- ADC, in every mode: A takes the low 8 bits of `A + M + C`; C is its bit 8, V the sign-bit test, N and Z are
set from A; the formula does not read D (43_alu R243, R244). -/
def Obligations.AdcResult : Prop :=
  ∀ (m : ReadMode) (s : State),
    (Instr.adc m).opcode = 0x60 + Claims.aluColumn m ∧
    exec (.adc m) s = .next { Claims.afterRead m.source s with
      a := (Claims.adc s.a (Claims.operand m.source s).1 s.p).1
      p := (Claims.adc s.a (Claims.operand m.source s).1 s.p).2 }

/-- SBC, in every mode: A takes `A - M - (1 - C)` mod 256; C is "not negative", V the sign-bit test, N and Z are
set from A; the formula does not read D; and it is ADC of the complement (43_alu R243, R245). -/
def Obligations.SbcResult : Prop :=
  (∀ (m : ReadMode) (s : State),
    (Instr.sbc m).opcode = 0xE0 + Claims.aluColumn m ∧
    exec (.sbc m) s = .next { Claims.afterRead m.source s with
      a := (Claims.sbc s.a (Claims.operand m.source s).1 s.p).1
      p := (Claims.sbc s.a (Claims.operand m.source s).1 s.p).2 }) ∧
  (∀ a m p : Byte, subBorrow a m p = addCarry a (~~~m) p)

/-- CMP, CPX, CPY, in every mode: C is "register ≥ M" unsigned, Z "equal", N bit 7 of the difference; nothing is
stored. BIT: Z of A and M, V and N from bits 6 and 7 of M (43_alu R242, R249–R252). -/
def Obligations.CompareAndBitResults : Prop :=
  (∀ (m : ReadMode) (s : State),
    (Instr.cmp m).opcode = 0xC0 + Claims.aluColumn m ∧
    exec (.cmp m) s = .next { Claims.afterRead m.source s with
      p := Claims.cmp s.a (Claims.operand m.source s).1 s.p }) ∧
  (∀ (m : CpxMode) (s : State),
    (Instr.cpx m).opcode = 0xE0 + Claims.cpxColumn m ∧
    (exec (.cpx m) s = .next { Claims.afterRead m.source s with
      p := Claims.cmp s.x (Claims.operand m.source s).1 s.p }) ∧
    (Instr.cpy m).opcode = 0xC0 + Claims.cpxColumn m ∧
    (exec (.cpy m) s = .next { Claims.afterRead m.source s with
      p := Claims.cmp s.y (Claims.operand m.source s).1 s.p })) ∧
  (∀ (m : BitMode) (s : State),
    (Instr.bit m).opcode = 0x20 + Claims.bitColumn m ∧
    exec (.bit m) s = .next { Claims.afterRead m.source s with
      p := Claims.bit s.a (Claims.operand m.source s).1 s.p })

/-- STA, STX, STY, in every mode: one bus write of the register at the effective address, with whatever that write
does; no flag, no bonus, no dummy read; PC, cycles and opcode (41_load_store_transfer R213–R215). -/
def Obligations.StoreResults : Prop :=
  (∀ (m : MemMode) (s : State),
    (Instr.sta m).opcode = 0x80 + Claims.staColumn m ∧
    exec (.sta m) s = .next (Claims.afterStore m.form s.a s)) ∧
  (∀ (m : StxMode) (s : State),
    (Instr.stx m).opcode = 0x80 + Claims.stxColumn m ∧
    exec (.stx m) s = .next (Claims.afterStore m.form s.x s)) ∧
  (∀ (m : StyMode) (s : State),
    (Instr.sty m).opcode = 0x80 + Claims.styColumn m ∧
    exec (.sty m) s = .next (Claims.afterStore m.form s.y s))

/-- TAX, TAY, TSX, TXA, TXS, TYA: the destination takes the source, N and Z are set from it (by TXS not), PC moves by
1 and `cycles` by 2 (41_load_store_transfer R216–R221). -/
def Obligations.TransferResults : Prop :=
  (∀ s : State,
    exec .tax s = .next { Claims.implied 2 s with x := s.a, p := Claims.withNZ s.p s.a } ∧
    exec .tay s = .next { Claims.implied 2 s with y := s.a, p := Claims.withNZ s.p s.a } ∧
    exec .tsx s = .next { Claims.implied 2 s with x := s.sp, p := Claims.withNZ s.p s.sp } ∧
    exec .txa s = .next { Claims.implied 2 s with a := s.x, p := Claims.withNZ s.p s.x } ∧
    exec .txs s = .next { Claims.implied 2 s with sp := s.x } ∧
    exec .tya s = .next { Claims.implied 2 s with a := s.y, p := Claims.withNZ s.p s.y }) ∧
  encode .tax = [0xAA] ∧ encode .tay = [0xA8] ∧ encode .tsx = [0xBA] ∧ encode .txa = [0x8A] ∧
  encode .txs = [0x9A] ∧ encode .tya = [0x98]

/-- INX, INY, DEX, DEY: the register plus or minus 1 mod 256, N and Z set from it, PC by 1, `cycles` by 2 (43_alu
R255–R258). -/
def Obligations.IndexCountResults : Prop :=
  (∀ s : State,
    exec .inx s = .next { Claims.implied 2 s with x := s.x + 1, p := Claims.withNZ s.p (s.x + 1) } ∧
    exec .iny s = .next { Claims.implied 2 s with y := s.y + 1, p := Claims.withNZ s.p (s.y + 1) } ∧
    exec .dex s = .next { Claims.implied 2 s with x := s.x - 1, p := Claims.withNZ s.p (s.x - 1) } ∧
    exec .dey s = .next { Claims.implied 2 s with y := s.y - 1, p := Claims.withNZ s.p (s.y - 1) }) ∧
  encode .inx = [0xE8] ∧ encode .iny = [0xC8] ∧ encode .dex = [0xCA] ∧ encode .dey = [0x88]

/-- INC and DEC: one read and one write, after the dummy read of a crossing abx form (43_alu R253, R254). -/
def Obligations.MemoryCountResults : Prop :=
  ∀ (m : IncMode) (s : State),
    (Instr.inc m).opcode = 0xE0 + Claims.incColumn m ∧
    exec (.inc m) s = .next (Claims.afterRmw m.target (Claims.inc s.p) s) ∧
    (Instr.dec m).opcode = 0xC0 + Claims.incColumn m ∧
    exec (.dec m) s = .next (Claims.afterRmw m.target (Claims.dec s.p) s)

/-- ASL, LSR, ROL, ROR, of A and of memory, in every mode: the result, C from the bit shifted out, the old C into a
rotate, N and Z from the result; a memory form makes one read and one write of its address, after the dummy
read of a crossing abx form (44_shift_rotate R270–R274, 40_engine R182). -/
def Obligations.ShiftRotateResults : Prop :=
  ∀ (m : ShiftMode) (s : State),
    (Instr.asl m).opcode = Claims.shiftColumn m ∧
    exec (.asl m) s = .next (Claims.afterRmw m.target (Claims.asl s.p) s) ∧
    (Instr.rol m).opcode = 0x20 + Claims.shiftColumn m ∧
    exec (.rol m) s = .next (Claims.afterRmw m.target (Claims.rol s.p) s) ∧
    (Instr.lsr m).opcode = 0x40 + Claims.shiftColumn m ∧
    exec (.lsr m) s = .next (Claims.afterRmw m.target (Claims.lsr s.p) s) ∧
    (Instr.ror m).opcode = 0x60 + Claims.shiftColumn m ∧
    exec (.ror m) s = .next (Claims.afterRmw m.target (Claims.ror s.p) s)

/-- PHA, PHP, PLA, PLP: the stack is page 1 and SP wraps (42_stack R230–R234). -/
def Obligations.StackResults : Prop :=
  (∀ s : State,
    exec .pha s = .next { Claims.implied 3 s with
      ram := s.ram.write (Claims.cell s.sp) s.a, sp := s.sp - 1 } ∧
    exec .php s = .next { Claims.implied 3 s with
      ram := s.ram.write (Claims.cell s.sp) (s.p ||| 0x10), sp := s.sp - 1 } ∧
    exec .pla s = .next { Claims.implied 4 s with
      a := Claims.top s 1, p := Claims.withNZ s.p (Claims.top s 1), sp := s.sp + 1 } ∧
    exec .plp s = .next { Claims.implied 4 s with
      p := (Claims.top s 1 &&& 0xCF) ||| 0x20, sp := s.sp + 1 }) ∧
  encode .pha = [0x48] ∧ encode .php = [0x08] ∧ encode .pla = [0x68] ∧ encode .plp = [0x28]

/-- JMP, both forms, whatever the pointer's address (45_control R280, 40_engine R192). -/
def Obligations.JumpResults : Prop :=
  ∀ (w : Word) (s : State),
    (exec (.jmp (.abs w)) s = .next { s with pc := w, cycles := s.cycles + 3 }) ∧
    (exec (.jmp (.ind w)) s = .next { (s.read16Bug w).2 with
      pc := (s.read16Bug w).1, cycles := s.cycles + 5 }) ∧
    encode (.jmp (.abs w)) = [0x4C, loByte w, hiByte w] ∧
    encode (.jmp (.ind w)) = [0x6C, loByte w, hiByte w]

/-- JSR pushes the address of its own last byte, high byte first; RTS pulls it and adds 1 (45_control R281,
R282). -/
def Obligations.SubroutineResults : Prop :=
  ∀ (w : Word) (s : State),
    (exec (.jsr w) s = .next { s with
      ram := Claims.pushedRam s.ram s.sp [hiByte (s.pc + 2), loByte (s.pc + 2)]
      sp := s.sp - 2, pc := w, cycles := s.cycles + 6 }) ∧
    (exec .rts s = .next { s with
      sp := s.sp + 2, pc := mkWord (Claims.top s 2) (Claims.top s 1) + 1, cycles := s.cycles + 6 }) ∧
    encode (.jsr w) = [0x20, loByte w, hiByte w] ∧ encode .rts = [0x60]

/-- BRK traps through 0xFFFE with B set in the pushed byte; RTI pulls P, B forced to 0 and U to 1, then PC
(45_control R283, R284). -/
def Obligations.TrapResults : Prop :=
  (∀ s : State,
    (exec .brk s = .next { s with
      ram := Claims.pushedRam s.ram s.sp [hiByte (s.pc + 2), loByte (s.pc + 2), s.p ||| 0x10]
      sp := s.sp - 3, p := s.p ||| 0x04, pc := Claims.vector s 0xFFFE, cycles := s.cycles + 7 }) ∧
    (exec .rti s = .next { s with
      p := (Claims.top s 1 &&& 0xCF) ||| 0x20, sp := s.sp + 3
      pc := mkWord (Claims.top s 3) (Claims.top s 2), cycles := s.cycles + 6 })) ∧
  Instr.brk.opcode = 0x00 ∧ (desc 0x00).length = 2 ∧ encode .rti = [0x40]

/-- The eight branches: each tests its flag; taken, PC is the address after the branch plus the signed offset, else
that address; 2 cycles, 3 if taken, 4 if taken to another page; nothing else changes (45_control R285–R293,
40_engine R195). -/
def Obligations.BranchResults : Prop :=
  ∀ (o : Byte) (s : State),
    exec (.bcc o) s = .next (Claims.branch (s.p &&& 0x01 == 0) o s) ∧ encode (.bcc o) = [0x90, o] ∧
    exec (.bcs o) s = .next (Claims.branch (s.p &&& 0x01 != 0) o s) ∧ encode (.bcs o) = [0xB0, o] ∧
    exec (.beq o) s = .next (Claims.branch (s.p &&& 0x02 != 0) o s) ∧ encode (.beq o) = [0xF0, o] ∧
    exec (.bmi o) s = .next (Claims.branch (s.p &&& 0x80 != 0) o s) ∧ encode (.bmi o) = [0x30, o] ∧
    exec (.bne o) s = .next (Claims.branch (s.p &&& 0x02 == 0) o s) ∧ encode (.bne o) = [0xD0, o] ∧
    exec (.bpl o) s = .next (Claims.branch (s.p &&& 0x80 == 0) o s) ∧ encode (.bpl o) = [0x10, o] ∧
    exec (.bvc o) s = .next (Claims.branch (s.p &&& 0x40 == 0) o s) ∧ encode (.bvc o) = [0x50, o] ∧
    exec (.bvs o) s = .next (Claims.branch (s.p &&& 0x40 != 0) o s) ∧ encode (.bvs o) = [0x70, o]

/-- The flag instructions write their flag alone and NOP nothing; PC moves by 1 and `cycles` by 2 (46_flags_nop
R300–R307). -/
def Obligations.FlagResults : Prop :=
  (∀ s : State,
    exec .clc s = .next { Claims.implied 2 s with p := s.p &&& 0xFE } ∧
    exec .cld s = .next { Claims.implied 2 s with p := s.p &&& 0xF7 } ∧
    exec .cli s = .next { Claims.implied 2 s with p := s.p &&& 0xFB } ∧
    exec .clv s = .next { Claims.implied 2 s with p := s.p &&& 0xBF } ∧
    exec .sec s = .next { Claims.implied 2 s with p := s.p ||| 0x01 } ∧
    exec .sed s = .next { Claims.implied 2 s with p := s.p ||| 0x08 } ∧
    exec .sei s = .next { Claims.implied 2 s with p := s.p ||| 0x04 } ∧
    exec .nop s = .next (Claims.implied 2 s)) ∧
  encode .clc = [0x18] ∧ encode .cld = [0xD8] ∧ encode .cli = [0x58] ∧ encode .clv = [0xB8] ∧
  encode .sec = [0x38] ∧ encode .sed = [0xF8] ∧ encode .sei = [0x78] ∧ encode .nop = [0xEA]

/-! ### Undocumented opcodes -/

/-- Under `Refuse` every undocumented opcode, and KIL under both policies, only sets `refused`
(47_undocumented R310, R313): the constructors kil, slo, rla, sre, rra, dcp, isc, sax, lax, anc, alr, arr,
xaa, axs, ahx, shy, shx, tas, las, nopU, sbcU. -/
def Obligations.UndocumentedRefused : Prop :=
  ∀ (i : Instr) (s : State), Claims.undocumented i = true →
    (s.params.illegalMode = .refuse ∨ ∃ op, i = .kil op) → exec i s = .next { s with refused := true }

/-- Under `StubNop` every undocumented opcode but KIL is a flagged no-op of the conventional length and base
cycles (47_undocumented R311, R312). -/
def Obligations.UndocumentedStubbed : Prop :=
  ∀ s : State, s.params.illegalMode = .stubNop →
    (∀ m : MemMode,
      exec (.slo m) s = .next (Claims.stub (Claims.addrLength m.form) (Claims.rmwUTime m.form) s) ∧
      exec (.rla m) s = .next (Claims.stub (Claims.addrLength m.form) (Claims.rmwUTime m.form) s) ∧
      exec (.sre m) s = .next (Claims.stub (Claims.addrLength m.form) (Claims.rmwUTime m.form) s) ∧
      exec (.rra m) s = .next (Claims.stub (Claims.addrLength m.form) (Claims.rmwUTime m.form) s) ∧
      exec (.dcp m) s = .next (Claims.stub (Claims.addrLength m.form) (Claims.rmwUTime m.form) s) ∧
      exec (.isc m) s = .next (Claims.stub (Claims.addrLength m.form) (Claims.rmwUTime m.form) s) ∧
      (Instr.slo m).opcode = Claims.rmwUColumn m ∧ (Instr.rla m).opcode = 0x20 + Claims.rmwUColumn m ∧
      (Instr.sre m).opcode = 0x40 + Claims.rmwUColumn m ∧ (Instr.rra m).opcode = 0x60 + Claims.rmwUColumn m ∧
      (Instr.dcp m).opcode = 0xC0 + Claims.rmwUColumn m ∧ (Instr.isc m).opcode = 0xE0 + Claims.rmwUColumn m) ∧
    (∀ m : SaxMode,
      exec (.sax m) s = .next (Claims.stub (Claims.addrLength (Claims.saxForm m)) (Claims.saxTime m) s)) ∧
    (∀ m : LaxMode, exec (.lax m) s = .next (Claims.stub (Claims.laxLength m) (Claims.laxTime m) s)) ∧
    (∀ m : AhxMode, exec (.ahx m) s = .next (Claims.stub (Claims.ahxLength m) (Claims.ahxTime m) s)) ∧
    (∀ i : Byte,
      exec (.alr i) s = .next (Claims.stub 2 2 s) ∧ exec (.arr i) s = .next (Claims.stub 2 2 s) ∧
      exec (.xaa i) s = .next (Claims.stub 2 2 s) ∧ exec (.axs i) s = .next (Claims.stub 2 2 s) ∧
      exec (.sbcU i) s = .next (Claims.stub 2 2 s)) ∧
    (∀ w : Word,
      exec (.shy w) s = .next (Claims.stub 3 5 s) ∧ exec (.shx w) s = .next (Claims.stub 3 5 s) ∧
      exec (.tas w) s = .next (Claims.stub 3 5 s) ∧ exec (.las w) s = .next (Claims.stub 3 4 s)) ∧
    (∀ op i : Byte, (Instr.anc op i).wellFormed = true → exec (.anc op i) s = .next (Claims.stub 2 2 s)) ∧
    (∀ (op : Byte) (e : Extra), (Instr.nopU op e).wellFormed = true →
      exec (.nopU op e) s = .next (Claims.stub (Claims.extraLength e) (Claims.nopTime op e) s))

/-! ### Laws of the ALU and of the stack -/

/-- The overflow flag is the sign-bit test (43_alu R241), and it is 1 exactly when the signed sum (difference)
with the carry (borrow) lies outside -128..127. -/
def Obligations.OverflowIsSignedRange : Prop :=
  ∀ a m p : Byte,
    flagV (addCarry a m p).2 = (~~~(a ^^^ m) &&& (a ^^^ (addCarry a m p).1)).getLsbD 7 ∧
    flagV (subBorrow a m p).2 = ((a ^^^ m) &&& (a ^^^ (subBorrow a m p).1)).getLsbD 7 ∧
    (flagV (addCarry a m p).2 = true ↔
      a.toInt + m.toInt + (p &&& 0x01).toInt < -128 ∨ 127 < a.toInt + m.toInt + (p &&& 0x01).toInt) ∧
    (flagV (subBorrow a m p).2 = true ↔
      a.toInt - m.toInt - (1 - (p &&& 0x01).toInt) < -128 ∨ 127 < a.toInt - m.toInt - (1 - (p &&& 0x01).toInt))

/-- Nine ROLs of a byte with C restore both, nine RORs too, and a ROR undoes a ROL (44_shift_rotate R272,
R273). -/
def Obligations.NineRotatesRestore : Prop :=
  ∀ m p : Byte,
    ((fun q : Byte × Byte => rotateLeft q.1 q.2)^[9] (m, p)).1 = m ∧
    flagC ((fun q : Byte × Byte => rotateLeft q.1 q.2)^[9] (m, p)).2 = flagC p ∧
    ((fun q : Byte × Byte => rotateRight q.1 q.2)^[9] (m, p)).1 = m ∧
    flagC ((fun q : Byte × Byte => rotateRight q.1 q.2)^[9] (m, p)).2 = flagC p ∧
    (rotateRight (rotateLeft m p).1 (rotateLeft m p).2).1 = m ∧
    flagC (rotateRight (rotateLeft m p).1 (rotateLeft m p).2).2 = flagC p

/-- RTS after JSR returns to the instruction after the JSR with SP as it was; RTI after BRK returns past the
padding byte with SP as it was and P as it was but for B = 0 and U = 1; RTI after an interrupt entry returns
to the instruction that was not begun (45_control R281–R284, 60_exceptions R440–R442). The stack may wrap. -/
def Obligations.CallsAndTrapsReturn : Prop :=
  ∀ (s : State) (w : Word),
    (∃ t u, exec (.jsr w) s = .next t ∧ exec .rts t = .next u ∧
      u = { s with ram := t.ram, pc := s.pc + 3, cycles := s.cycles + 12 }) ∧
    (∃ t u, exec .brk s = .next t ∧ exec .rti t = .next u ∧
      u = { s with ram := t.ram, p := (s.p &&& 0xCF) ||| 0x20, pc := s.pc + 2, cycles := s.cycles + 13 }) ∧
    (∃ u, exec .rti (s.enterInterrupt nmiVector) = .next u ∧
      u = { s with
        ram := (s.enterInterrupt nmiVector).ram, p := (s.p &&& 0xCF) ||| 0x20
        cycles := s.cycles + 13, pending := .none }) ∧
    (∃ u, exec .rti (s.enterInterrupt irqVector) = .next u ∧
      u = { s with
        ram := (s.enterInterrupt irqVector).ram, p := (s.p &&& 0xCF) ||| 0x20
        cycles := s.cycles + 13, pending := .none })

/-! ### Frames: what an instruction leaves unchanged, for every instruction and every form -/

/-- A register is unchanged unless the spec names the instruction among its writers (10_state R30, R31); the model's
parameters, IRQ line and run mark are written by no instruction; `refused` and `stubbed` are never cleared, and
a documented instruction does not set them (R43, R44). -/
def Obligations.RegisterFrame : Prop :=
  ∀ (i : Instr) (s t : State), exec i s = .next t →
    (Claims.writesA i = false → t.a = s.a) ∧ (Claims.writesX i = false → t.x = s.x) ∧
    (Claims.writesY i = false → t.y = s.y) ∧ (Claims.writesSP i = false → t.sp = s.sp) ∧
    t.params = s.params ∧ t.irqLine = s.irqLine ∧ t.runStart = s.runStart ∧
    (s.refused = true → t.refused = true) ∧ (s.stubbed = true → t.stubbed = true) ∧
    (Claims.undocumented i = false → t.refused = s.refused ∧ t.stubbed = s.stubbed)

/-- A flag is unchanged unless the spec names the instruction among its writers (10_state R36); U and B are written by
PLP and RTI alone. -/
def Obligations.FlagFrame : Prop :=
  ∀ (i : Instr) (s t : State), exec i s = .next t →
    t.p &&& ~~~(Claims.flagsWritten i) = s.p &&& ~~~(Claims.flagsWritten i)

/-- Every byte of the address space's memory is unchanged but the RAM cells of the addresses the instruction
stores to: the effective address of a store or a read-modify-write, the stack cells of a push. A form that
stores nothing leaves every byte (20_memory R81, R85, 40_engine R177). -/
def Obligations.MemoryFrame : Prop :=
  ∀ (i : Instr) (s t : State) (a : Word), exec i s = .next t →
    (∀ w ∈ Claims.stored i s, w.toNat < 0x2000 → a.toNat < 0x2000 → a.toNat % 0x800 ≠ w.toNat % 0x800) →
    t.memByte a = s.memByte a

/-- An instruction that accesses no address in 0x2000–0x5FFF leaves the picture processor, the pending tag,
the controllers, the cartridge, the stall count and the input answers as they were; one that stores to none
leaves sprite memory, the nametables, the palette, the cartridge, the stall count and the input answers
(20_memory R80, R89; 40_engine R177). -/
def Obligations.DeviceFrame : Prop :=
  ∀ (i : Instr) (s t : State), exec i s = .next t →
    ((∀ w ∈ Claims.accessed i s, ¬ Claims.outside w) →
      t.ppu = s.ppu ∧ t.pending = s.pending ∧ t.pad = s.pad ∧ t.cart = s.cart ∧ t.stall = s.stall ∧
        t.inputs = s.inputs ∧ t.inputCalls = s.inputCalls) ∧
    ((∀ w ∈ Claims.stored i s, ¬ Claims.outside w) →
      t.ppu.oam = s.ppu.oam ∧ t.ppu.ciram = s.ppu.ciram ∧ t.ppu.palette = s.ppu.palette ∧ t.cart = s.cart ∧
        t.stall = s.stall ∧ t.inputs = s.inputs ∧ t.inputCalls = s.inputCalls)

/-! ### The step -/

/-- A step runs the decoded instruction: where the bytes at PC, in memory, decode to `i`, the step is `exec` of
`i` at the state in which it is fetched (the run call opened, the stall block, the IRQ line and the interrupt
check done: InterruptDecision says what they do), then the end of the run call where its budget is spent
(EveryStepEndsItsRun). -/
def Obligations.StepRunsDecodedInstruction : Prop :=
  ∀ (s u : State) (c : Cartridge) (i : Instr) (rest : List Byte),
    s.refused = false → s.cart = some c → u = s.openRun.beforeFetch →
    ¬ Claims.outside u.pc → ¬ Claims.outside (u.pc + 1) → ¬ Claims.outside (u.pc + 2) →
    decode [u.memByte u.pc, u.memByte (u.pc + 1), u.memByte (u.pc + 2)] = .ok (i, rest) →
    i.wellFormed = true ∧ ∃ t, exec i u = .next t ∧ step s = .next t.closeRun

/-- The fetch reads its bytes through the bus, in address order: the opcode, then as many operand bytes as a
documented opcode's mode has, so that BRK's padding byte is not read. Of an undocumented opcode no operand byte is
read under `Refuse`, nor of KIL under either policy, and under `StubNop` the bytes of its length are (40_engine
R172; 47_undocumented R310, R311, R313). That the instruction of a refused opcode then carries 0x00 for the operand
bytes that are not read is the model's choice, log 14 (DESIGN CHOICE), and no rule of the spec. -/
def Obligations.FetchReadsThroughTheBus : Prop :=
  (∀ (s u : State) (op : Byte) (n : Nat), s.read s.pc = (op, u) → n = Claims.operandBytesRead s.params op →
    n ≤ 2 ∧
    (n = 0 → s.fetch = (decodeOp op 0 0, u)) ∧
    (n = 1 → s.fetch = (decodeOp op (u.read (s.pc + 1)).1 0, (u.read (s.pc + 1)).2)) ∧
    (n = 2 → s.fetch = (decodeOp op (u.read (s.pc + 1)).1 ((u.read (s.pc + 1)).2.read (s.pc + 2)).1,
      ((u.read (s.pc + 1)).2.read (s.pc + 2)).2))) ∧
  (desc 0x00).mode.operandBytes = 0 ∧
  (∀ op : Byte, (desc op).documented = true → op ≠ 0x00 → (desc op).mode.operandBytes = (desc op).length - 1)

/-- The machine is total: a step answers a next state exactly when the state is not refused and a cartridge is
loaded; a refused state has no step, and without a cartridge neither step, run nor reset has one; a run on a
refused state makes its closing catch-up and nothing else. No host operation starts while a `run` call is open:
that it is then refused is the model's reading of "unsupported" (10_state R43, 52_cartridge R408, 20_memory R80,
70_reset R463, R466; 93 rows 8 and 23; log 18). -/
def Obligations.StepStopsOnlyWhereNoStepExists : Prop :=
  ∀ s : State,
    ((∃ t, step s = .next t) ↔ s.refused = false ∧ s.cart ≠ none) ∧
    (s.refused = true → step s = .refused .alreadyRefused) ∧
    (s.refused = false → s.cart = none → step s = .fault .noCartridge) ∧
    (s.runStart = none → s.cart = none →
      s.resetOp = .fault .noCartridge ∧ ∀ budget, run budget s = .fault .noCartridge) ∧
    (s.runStart = none → s.cart ≠ none → s.refused = true → ∀ budget, run budget s = .next (0, s.catchUp)) ∧
    (s.runStart ≠ none →
      s.resetOp = .refused .reentrantCall ∧ runFrame s = .refused .reentrantCall ∧
      (∀ budget, run budget s = .refused .reentrantCall) ∧
      ∀ image, s.loadImage image = .refused .reentrantCall)

/-- What stands before the fetch: all of the stall at once; then one look at the IRQ line, whose request is kept
only where nothing is pending; then a pending NMI is taken whatever I holds, a pending IRQ only with I = 0. That
the line is a list of which each iteration takes one entry is the model's choice (40_engine R171; 60_exceptions
R437, R439; log 6). -/
def Obligations.InterruptDecision : Prop :=
  ∀ (s u : State) (tag : Pending),
    (tag = if s.irqLine.head? = some true ∧ s.pending = .none then .irq else s.pending) →
    u = { s with cycles := s.cycles + s.stall, stall := 0, irqLine := s.irqLine.tail, pending := tag } →
    s.beforeFetch =
      if tag = .nmi then u.enterInterrupt 0xFFFA
      else if tag = .irq ∧ s.p &&& 0x04 = 0 then u.enterInterrupt 0xFFFE
      else u

/-- Interrupt entry: PC-high, PC-low and P | 0x10 pushed, I set, PC from the vector, 7 cycles, `pending` cleared;
D and everything else as it was. The same iteration then executes the handler's first instruction
(60_exceptions R440). -/
def Obligations.InterruptEntry : Prop :=
  (∀ (s : State) (v : Word), v = 0xFFFA ∨ v = 0xFFFE →
    s.enterInterrupt v = { s with
      ram := Claims.pushedRam s.ram s.sp [hiByte s.pc, loByte s.pc, s.p ||| 0x10]
      sp := s.sp - 3, p := s.p ||| 0x04, pc := Claims.vector s v, cycles := s.cycles + 7, pending := .none }) ∧
  (∀ (s u : State) (v : Word), s.refused = false → s.cart ≠ none → s.stall = 0 → s.irqLine = [] →
    (s.pending = .nmi ∧ v = 0xFFFA) ∨ (s.pending = .irq ∧ s.p &&& 0x04 = 0 ∧ v = 0xFFFE) →
    u = s.enterInterrupt v → engineStep s = exec u.fetch.1 u.fetch.2)

/-- Time: a step never turns the cycle counter back, and moves it by at least 2 unless it sets `refused`
(10_state R40); with `RUN_BUDGET` at most 1, a step from between two run calls ends its call, with every owed
tick replayed (70_reset R466, R467). -/
def Obligations.EveryStepEndsItsRun : Prop :=
  ∀ s t : State, step s = .next t →
    s.cycles ≤ t.cycles ∧ (t.refused = false → s.cycles + 2 ≤ t.cycles) ∧
    (s.params.runBudget ≤ 1 → s.runStart = none →
      t.runStart = none ∧ t.ppu.lastSynced = t.cycles)

/-- No step changes the parameters, the cartridge's PRG, masks, mirroring or mapper, or CHR ROM (10_state R57,
20_memory R91, 52_cartridge R405, R406). That the parameters ride in the state, and that each step takes one entry
of the IRQ line, are the model's choices (logs 1 and 6; 10_state R58). -/
def Obligations.StepKeepsRom : Prop :=
  ∀ s t : State, step s = .next t →
    t.params = s.params ∧ t.irqLine = s.irqLine.tail ∧
    ∃ c d, s.cart = some c ∧ t.cart = some d ∧ d.prg = c.prg ∧ d.prgMask = c.prgMask ∧
      d.chrMask = c.chrMask ∧ d.chrIsRam = c.chrIsRam ∧ d.mirroring = c.mirroring ∧ d.mapper = c.mapper ∧
      (c.chrIsRam = false → d = c)

/-- The machine right after reset meets the invariant. -/
def Obligations.ResetInv : Prop := State.reset.Inv

/-- Every step keeps the invariant: U is 1 and B is 0; every memory keeps its canonical form and its size; no
palette alias holds an entry of its own; the position stays on the grid; at most eight sprites are active; the
frame buffer holds 6-bit values; the edge detector knows the NMI line; no tick is replayed before its time
(10_state R34, R35, R45, R51, R53, 20_memory R114, 51_ppu R382, 60_exceptions R435). -/
def Obligations.StepKeepsInv : Prop :=
  ∀ s t : State, s.Inv → step s = .next t → t.Inv

/-! ### The CPU bus -/

/-- Internal RAM: a read after a write gives the byte written where the two addresses name one of the 2,048
cells, mirrored every 0x800, and the old byte elsewhere; RAM accesses have no side effect (20_memory R81). -/
def Obligations.RamReadAfterWrite : Prop :=
  ∀ (s : State) (a b : Word) (v : Byte), a.toNat < 0x2000 → b.toNat < 0x2000 →
    (s.write a v).read b =
      (if a.toNat % 0x800 = b.toNat % 0x800 then v else s.ram.read (b.toNat % 0x800), s.write a v) ∧
    s.write a v = { s with ram := s.ram.write (a.toNat % 0x800) v } ∧
    s.read b = (s.ram.read (b.toNat % 0x800), s)

/-- Unmapped addresses read 0x00 and ignore writes; cartridge space reads PRG through its mask from 0x8000 up and
0x00 below, and ignores every write (20_memory R84, R85, 52_cartridge R410). -/
def Obligations.UnmappedAndCartridgeSpace : Prop :=
  ∀ (s : State) (a : Word) (v : Byte),
    (0x4000 ≤ a.toNat → a.toNat < 0x6000 → a ≠ 0x4016 → a ≠ 0x4017 → s.read a = (0x00, s)) ∧
    (0x4000 ≤ a.toNat → a.toNat < 0x6000 → a ≠ 0x4014 → a ≠ 0x4016 → s.write a v = s) ∧
    (0x6000 ≤ a.toNat → s.write a v = s) ∧
    (0x6000 ≤ a.toNat → a.toNat < 0x8000 → s.read a = (0x00, s)) ∧
    (∀ c, s.cart = some c → 0x8000 ≤ a.toNat →
      s.read a = (c.prg.read ((a.toNat - 0x8000) &&& c.prgMask), s))

/-- The PPU register window: the eight registers repeat every 8 bytes, and every access first replays the owed
ticks, three for each cycle since the last catch-up, and no others; a write loads the latch (20_memory R82,
51_ppu R360). -/
def Obligations.PpuWindow : Prop :=
  ∀ (s : State) (a : Word) (v : Byte), 0x2000 ≤ a.toNat → a.toNat < 0x4000 →
    s.read a = s.catchUp.read (BitVec.ofNat 16 (0x2000 + a.toNat % 8)) ∧
    s.write a v = s.catchUp.write (BitVec.ofNat 16 (0x2000 + a.toNat % 8)) v ∧
    (s.read a).2.ppu.lastSynced = s.cycles ∧ (s.write a v).ppu.lastSynced = s.cycles ∧
    (s.write a v).ppu.latch = v ∧
    (let q := (Ppu.tick s.cart s.params)^[3 * (s.cycles - s.ppu.lastSynced)] (s.ppu, s.pending)
     s.catchUp = { s with ppu := { q.1 with lastSynced := s.cycles }, pending := q.2 })

/-- OAM DMA: 256 bus reads in order into sprite memory from the cursor on, then 513 stall cycles, one more where
the cycle counter is odd; the cursor ends where it began; and where the page is memory, byte `k` of the page
stands `k` places after the cursor (20_memory R100, R101). -/
def Obligations.OamDma : Prop :=
  ∀ (s : State) (page : Byte),
    s.write 0x4014 page =
      { Claims.dmaLoop page s with stall := (Claims.dmaLoop page s).stall + 513 + s.cycles % 2 } ∧
    (s.write 0x4014 page).ppu.oamAddr = s.ppu.oamAddr ∧
    (s.write 0x4014 page).stall = s.stall + 513 + s.cycles % 2 ∧
    (¬ Claims.outside (mkWord page 0) → ∀ k : Byte,
      (s.write 0x4014 page).ppu.oam.read (s.ppu.oamAddr + k).toNat = s.memByte (mkWord page k))

/-- The controller ports: a read gives bit 0 of the shift register and shifts a 1 in from the top, the register
being held at the snapshot while the strobe is high; eight reads of 0x4016 give the eight bits and every later one
gives 1; the strobe's fall asks the input once; a strobe bit of 0 with the strobe low does nothing. Where the
answer comes from, a list and then a free value at a counter, is the model's choice (52_cartridge R421–R423;
log 5). -/
def Obligations.ControllerPorts : Prop :=
  ∀ (s : State) (d : Byte),
    (let r0 := if s.pad.strobe then loByte s.pad.snapshot else s.pad.shift0
     s.read 0x4016 = (r0 &&& 0x01, { s with pad := { s.pad with shift0 := (r0 >>> 1) ||| 0x80 } })) ∧
    (let r1 := if s.pad.strobe then hiByte s.pad.snapshot else s.pad.shift1
     s.read 0x4017 = (r1 &&& 0x01, { s with pad := { s.pad with shift1 := (r1 >>> 1) ||| 0x80 } })) ∧
    (d &&& 0x01 = 1 → s.write 0x4016 d =
      { s with pad := ⟨true, s.pad.snapshot, loByte s.pad.snapshot, hiByte s.pad.snapshot⟩ }) ∧
    (d &&& 0x01 = 0 → s.pad.strobe = true → ∀ answer, answer = s.inputs.headD (Config.input s.inputCalls) →
      s.write 0x4016 d = { s with
        pad := ⟨false, answer, loByte answer, hiByte answer⟩
        inputs := s.inputs.tail, inputCalls := s.inputCalls + 1 }) ∧
    (d &&& 0x01 = 0 → s.pad.strobe = false → s.write 0x4016 d = s) ∧
    (s.pad.strobe = false → ∀ n, Claims.portReads 0x4016 n s =
      (List.range n).map (fun k => if k < 8 then (s.pad.shift0 >>> k) &&& 0x01 else 0x01))

/-! ### The PPU's registers; `c` is the state after the catch-up -/

/-- A read of `$2002` gives the stale low bits and the three flags, then clears vblank and the write toggle and
drops the NMI line; a read of `$2004` gives the byte at the cursor and a read of a write-only register 0x00,
both with no further effect (50_ppu R330, R331, R333, R348). -/
def Obligations.RegisterReads : Prop :=
  ∀ (s c : State) (a : Word), 0x2000 ≤ a.toNat → a.toNat < 0x4000 → c = s.catchUp →
    (a.toNat % 8 = 2 → s.read a =
      ((c.ppu.latch &&& 0x1F) ||| Claims.flag 5 c.ppu.spriteOverflow ||| Claims.flag 6 c.ppu.sprite0Hit
          ||| Claims.flag 7 c.ppu.vblank,
        { c with ppu := { c.ppu with vblank := false, w := false, nmiPrevious := false } })) ∧
    (a.toNat % 8 = 4 → s.read a = (c.ppu.oam.read c.ppu.oamAddr.toNat, c)) ∧
    (a.toNat % 8 = 0 ∨ a.toNat % 8 = 1 ∨ a.toNat % 8 = 3 ∨ a.toNat % 8 = 5 ∨ a.toNat % 8 = 6 →
      s.read a = (0x00, c))

/-- The data port `$2007`: a read below 0x3F00 gives the buffer and reloads it, a palette read gives the entry at
once and reloads the buffer from the nametable byte under it; a write goes to the PPU bus at `v`; each moves `v`
by 1 or by 32 (50_ppu R345–R347). -/
def Obligations.DataPort : Prop :=
  ∀ (s c : State) (a : Word) (d : Byte) (at' : BitVec 14) (next : BitVec 15),
    0x2000 ≤ a.toNat → a.toNat < 0x4000 → a.toNat % 8 = 7 → c = s.catchUp →
    at' = BitVec.ofNat 14 c.ppu.v.toNat → next = c.ppu.v + (if c.ppu.ctrl &&& 0x04 = 0 then 1 else 32) →
    (at'.toNat < 0x3F00 → s.read a = (c.ppu.readBuffer,
      { c with ppu := { c.ppu with readBuffer := c.ppu.busRead c.cart c.params at', v := next } })) ∧
    (0x3F00 ≤ at'.toNat → s.read a = (c.ppu.busRead c.cart c.params at',
      { c with ppu := { c.ppu with
          readBuffer := c.ppu.busRead c.cart c.params (at' - 0x1000), v := next } })) ∧
    (let q := Ppu.busWrite c.cart c.params { c.ppu with latch := d } at' d
     s.write a d = { c with ppu := { q.1 with v := next }, cart := q.2 })

/-- The writes of `$2000`–`$2006`, field by field: every one loads the latch; `$2000` puts its low bits into
`t[11:10]` and runs the edge detector; `$2002` does nothing more; `$2005` and `$2006` are two-step
(50_ppu R321, R323, R325, R332, R334, R336, R337, R340, R341, R349). -/
def Obligations.RegisterWrites : Prop :=
  ∀ (s c u : State) (a : Word) (d : Byte), 0x2000 ≤ a.toNat → a.toNat < 0x4000 → c = s.catchUp →
    u = s.write a d →
    u.ppu.latch = d ∧
    (a.toNat % 8 = 0 → u = { c with ppu := { c.ppu with
        latch := d, ctrl := d, t := u.ppu.t
        nmiDelay := if (d &&& 0x80 != 0 && c.ppu.vblank) && !c.ppu.nmiPrevious then c.params.nmiDelayTicks
          else c.ppu.nmiDelay
        nmiPrevious := d &&& 0x80 != 0 && c.ppu.vblank } } ∧
      u.ppu.t.extractLsb' 10 2 = d.extractLsb' 0 2 ∧ u.ppu.t.extractLsb' 0 10 = c.ppu.t.extractLsb' 0 10 ∧
      u.ppu.t.extractLsb' 12 3 = c.ppu.t.extractLsb' 12 3) ∧
    (a.toNat % 8 = 1 → u = { c with ppu := { c.ppu with latch := d, mask := d } }) ∧
    (a.toNat % 8 = 2 → u = { c with ppu := { c.ppu with latch := d } }) ∧
    (a.toNat % 8 = 3 → u = { c with ppu := { c.ppu with latch := d, oamAddr := d } }) ∧
    (a.toNat % 8 = 4 → u = { c with ppu := { c.ppu with
        latch := d, oam := c.ppu.oam.write c.ppu.oamAddr.toNat d, oamAddr := c.ppu.oamAddr + 1 } }) ∧
    (a.toNat % 8 = 5 → c.ppu.w = false →
      u = { c with ppu := { c.ppu with latch := d, t := u.ppu.t, fineX := d.extractLsb' 0 3, w := true } } ∧
      u.ppu.t.extractLsb' 0 5 = d.extractLsb' 3 5 ∧ u.ppu.t.extractLsb' 5 10 = c.ppu.t.extractLsb' 5 10) ∧
    (a.toNat % 8 = 5 → c.ppu.w = true →
      u = { c with ppu := { c.ppu with latch := d, t := u.ppu.t, w := false } } ∧
      u.ppu.t.extractLsb' 12 3 = d.extractLsb' 0 3 ∧ u.ppu.t.extractLsb' 5 5 = d.extractLsb' 3 5 ∧
      u.ppu.t.extractLsb' 0 5 = c.ppu.t.extractLsb' 0 5 ∧
      u.ppu.t.extractLsb' 10 2 = c.ppu.t.extractLsb' 10 2) ∧
    (a.toNat % 8 = 6 → c.ppu.w = false →
      u = { c with ppu := { c.ppu with latch := d, t := u.ppu.t, w := true } } ∧
      u.ppu.t.extractLsb' 8 6 = d.extractLsb' 0 6 ∧ u.ppu.t.getLsbD 14 = false ∧
      u.ppu.t.extractLsb' 0 8 = c.ppu.t.extractLsb' 0 8) ∧
    (a.toNat % 8 = 6 → c.ppu.w = true →
      u = { c with ppu := { c.ppu with latch := d, t := u.ppu.t, v := u.ppu.t, w := false } } ∧
      u.ppu.t.extractLsb' 0 8 = d ∧ u.ppu.t.extractLsb' 8 7 = c.ppu.t.extractLsb' 8 7)

/-- A status read and then two writes of the address register set `v`, whatever `w` was, through any mirrors of the
registers and with no tick replayed between them (50_ppu R331, R342; 20_memory R121). -/
def Obligations.AddressPairSetsV : Prop :=
  ∀ (s : State) (a b c : Word) (hi lo : Byte),
    0x2000 ≤ a.toNat → a.toNat < 0x4000 → a.toNat % 8 = 2 →
    0x2000 ≤ b.toNat → b.toNat < 0x4000 → b.toNat % 8 = 6 →
    0x2000 ≤ c.toNat → c.toNat < 0x4000 → c.toNat % 8 = 6 →
    let u := (((s.read a).2.write b hi).write c lo).ppu
    u.v.toNat = 256 * (hi.toNat % 64) + lo.toNat ∧ u.t = u.v ∧ u.w = false ∧
      u.dot = s.catchUp.ppu.dot ∧ u.scanline = s.catchUp.ppu.scanline

/-- The PPU bus: a nametable read after a nametable write gives the byte written where mirroring maps the two
addresses to one byte of one physical table, and the old byte elsewhere; the palette repeats every 32 bytes with
the entries 16, 20, 24, 28 aliased, and stores whole bytes; pattern memory is written only as CHR RAM, through
the mask (20_memory R110–R115). -/
def Obligations.PpuBusReadAfterWrite : Prop :=
  ∀ (cart : Option Cartridge) (params : Params) (p q : Ppu) (cart' : Option Cartridge) (a b : BitVec 14)
    (v : Byte), Ppu.busWrite cart params p a v = (q, cart') →
    (0x2000 ≤ a.toNat → a.toNat < 0x3F00 → 0x2000 ≤ b.toNat → b.toNat < 0x3F00 →
      q.busRead cart' params b = if Claims.nametableByte cart params a = Claims.nametableByte cart params b then v
        else p.busRead cart params b) ∧
    (0x3F00 ≤ a.toNat → 0x3F00 ≤ b.toNat →
      q.busRead cart' params b = if Claims.paletteEntry a = Claims.paletteEntry b then v
        else p.busRead cart params b) ∧
    (∀ c, cart = some c → a.toNat < 0x2000 → b.toNat < 0x2000 →
      q.busRead cart' params b = if c.chrIsRam = true ∧ a.toNat &&& c.chrMask = b.toNat &&& c.chrMask then v
        else p.busRead cart params b) ∧
    (a.toNat < 0x2000 → q = p) ∧ (0x2000 ≤ a.toNat → cart' = cart)

/-! ### Ticks -/

/-- An NMI becomes pending exactly when the delay scheduled by the edge has run out with the line still high: with
`n + 1` ticks left and the line high at each of them, the tag is untouched for `n` ticks and is NMI after the
next; with the line low at that tick, or with nothing scheduled, a tick leaves the tag (60_exceptions R435,
R436). -/
def Obligations.NmiArrivesAfterItsDelay : Prop :=
  ∀ (cart : Option Cartridge) (params : Params) (p : Ppu) (tag : Pending) (n : Nat),
    (p.nmiDelay = n + 1 → p.nmiPrevious = p.nmiLine →
      (∀ k ≤ n, ((Ppu.tick cart params)^[k] (p, tag)).1.nmiLine = true) →
      (∀ k ≤ n, ((Ppu.tick cart params)^[k] (p, tag)).2 = tag) ∧
        ((Ppu.tick cart params)^[n + 1] (p, tag)).2 = .nmi) ∧
    (p.nmiDelay ≠ 1 ∨ p.nmiLine = false → (Ppu.tick cart params (p, tag)).2 = tag)

/-- A frame is 262 scanlines of 341 dots: with rendering off, 89,342 ticks from anywhere on the grid lead back to the
same position with the parity toggled; with rendering on, from the top of an odd frame 89,341 do, and of an even
frame 89,342 (51_ppu R362, R363; 70_reset R484). -/
def Obligations.FrameLength : Prop :=
  ∀ (cart : Option Cartridge) (params : Params) (p : Ppu) (tag : Pending),
    p.dot ≤ 340 → p.scanline ≤ 261 →
    (p.renderingEnabled = false →
      let q := ((Ppu.tick cart params)^[89342] (p, tag)).1
      q.dot = p.dot ∧ q.scanline = p.scanline ∧ q.odd = !p.odd) ∧
    (p.renderingEnabled = true → Claims.position p = 0 →
      let q := ((Ppu.tick cart params)^[if p.odd then 89341 else 89342] (p, tag)).1
      Claims.position q = 0 ∧ q.odd = !p.odd)

/-- By a tick the vblank flag rises only at scanline 241, dot 1, where the frame buffer is delivered as it stands, and
falls only at scanline 261, dot 1, with the two sprite flags, whether or not rendering is enabled. The edge
detector runs at these two ticks: at (241, 1), with bit 7 of `$2000` set and the line low before, it schedules the
NMI; at (261, 1) the line drops. At every other tick the detector is left and the delay counts down. The list
`delivered` is the model's own (51_ppu R384, R385; 60_exceptions R434–R436; log 12). -/
def Obligations.VblankWindow : Prop :=
  ∀ (cart : Option Cartridge) (params : Params) (p q : Ppu) (tag tag' : Pending),
    Ppu.tick cart params (p, tag) = (q, tag') →
    (q.scanline = 241 → q.dot = 1 →
      q.vblank = true ∧ q.frameReady = true ∧ q.frame = p.frame ∧ q.delivered = p.frame :: p.delivered ∧
      q.nmiPrevious = (p.ctrl &&& 0x80 != 0) ∧
      q.nmiDelay = if p.ctrl &&& 0x80 ≠ 0 ∧ p.nmiPrevious = false then params.nmiDelayTicks
        else p.nmiDelay - 1) ∧
    (q.scanline = 261 → q.dot = 1 →
      q.vblank = false ∧ q.sprite0Hit = false ∧ q.spriteOverflow = false ∧
      q.nmiPrevious = false ∧ q.nmiLine = false ∧ q.nmiDelay = p.nmiDelay - 1) ∧
    (¬ (q.scanline = 241 ∧ q.dot = 1) → q.frameReady = p.frameReady ∧ q.delivered = p.delivered) ∧
    (¬ (q.scanline = 241 ∧ q.dot = 1) → ¬ (q.scanline = 261 ∧ q.dot = 1) →
      q.vblank = p.vblank ∧ q.nmiPrevious = p.nmiPrevious ∧ q.nmiDelay = p.nmiDelay - 1)

/-- Sprite evaluation keeps the first eight sprites of the line in OAM order with their pixels, both flips and both
sizes applied, sets overflow where more than eight qualify, and clears it never. A tick evaluates at dot 257 of a
visible line while rendering is enabled, empties the list at dot 257 of any other line, and leaves the slots at
every other dot and while rendering is off (51_ppu R361, R364, R365, R375–R377). -/
def Obligations.SpriteEvaluation : Prop :=
  ∀ (cart : Option Cartridge) (params : Params) (p e q : Ppu) (tag : Pending),
    e = p.evaluateSprites cart params → q = (Ppu.tick cart params (p, tag)).1 →
    e.sprCount = min (Claims.lineSprites p).length 8 ∧
    e.spriteOverflow = (p.spriteOverflow || decide (8 < (Claims.lineSprites p).length)) ∧
    (∀ (k : Fin 8) (n : Nat), (Claims.lineSprites p)[k.val]? = some n →
      e.slots[k].index = n ∧ e.slots[k].x = p.oam.read (4 * n + 3) ∧
      e.slots[k].priority = (p.oam.read (4 * n + 2)).getLsbD 5 ∧
      ∀ i : Fin 8, e.slots[k].pattern.extractLsb' (28 - 4 * i.val) 4 =
        Claims.spriteBits cart params p n (p.scanline - (p.oam.read (4 * n)).toNat) i.val) ∧
    (Claims.rendering p = true → q.dot = 257 → q.scanline < 240 →
      q.slots = e.slots ∧ q.sprCount = e.sprCount ∧ q.spriteOverflow = e.spriteOverflow) ∧
    (Claims.rendering p = true → q.dot = 257 → 240 ≤ q.scanline →
      q.slots = p.slots ∧ q.sprCount = 0 ∧ q.spriteOverflow = p.spriteOverflow) ∧
    (¬ (Claims.rendering p = true ∧ q.dot = 257) →
      q.slots = p.slots ∧ q.sprCount = p.sprCount ∧
      (¬ (q.scanline = 261 ∧ q.dot = 1) → q.spriteOverflow = p.spriteOverflow))

/-- A pixel: the background pixel is the one at the fine X offset of the shift register; the sprite pixel is that of
the first active slot that is opaque there; an opaque background without a sprite shows, and where both are opaque
the priority bit of the slot decides; sprite 0 sets its hit left of column 255. A tick that ends on a visible dot
of a visible line while rendering is enabled writes the pixel of that dot and line into the frame buffer, and no
other cell; every other tick leaves the frame buffer (51_ppu R361, R364, R365, R380–R383). -/
def Obligations.PixelComposition : Prop :=
  ∀ (cart : Option Cartridge) (params : Params) (p q r : Ppu) (tag : Pending) (px : Nat),
    q = (Ppu.tick cart params (p, tag)).1 → r = { p with dot := q.dot, scanline := q.scanline } →
    (p.mask &&& 0x08 = 0 ∨ px < 8 ∧ p.mask &&& 0x02 = 0 → p.backgroundPixel px = 0) ∧
    (p.mask &&& 0x08 ≠ 0 → 8 ≤ px ∨ p.mask &&& 0x02 ≠ 0 →
      p.backgroundPixel px = p.tileData.extractLsb' (60 - 4 * p.fineX.toNat) 4) ∧
    (∀ s : SpriteSlot, s.pixel px =
      if s.x.toNat ≤ px ∧ px ≤ s.x.toNat + 7 then s.pattern.extractLsb' (28 - 4 * (px - s.x.toNat)) 4
      else 0) ∧
    (∀ s, p.spritePixel px = some s →
      p.mask &&& 0x10 ≠ 0 ∧ (8 ≤ px ∨ p.mask &&& 0x04 ≠ 0) ∧ (s.pixel px).toNat % 4 ≠ 0 ∧
        ∃ k : Fin 8, k.val < p.sprCount ∧ p.slots[k] = s ∧
          ∀ j : Fin 8, j.val < k.val → (p.slots[j].pixel px).toNat % 4 = 0) ∧
    (p.spritePixel px = none →
      p.mask &&& 0x10 = 0 ∨ (px < 8 ∧ p.mask &&& 0x04 = 0) ∨
        ∀ k : Fin 8, k.val < p.sprCount → (p.slots[k].pixel px).toNat % 4 = 0) ∧
    (p.spritePixel px = none →
      (p.pixelColor px).toNat =
        if (p.backgroundPixel px).toNat % 4 = 0 then 0 else (p.backgroundPixel px).toNat) ∧
    (∀ s, p.spritePixel px = some s →
      (p.pixelColor px).toNat =
        if (p.backgroundPixel px).toNat % 4 = 0 ∨ s.priority = false then 16 + (s.pixel px).toNat
        else (p.backgroundPixel px).toNat) ∧
    (p.spriteZeroHits px = true ↔ (p.backgroundPixel px).toNat % 4 ≠ 0 ∧ px < 255 ∧
      ∃ s, p.spritePixel px = some s ∧ s.index = 0) ∧
    p.pixelByte px =
      p.palette.read (Claims.paletteEntry (BitVec.ofNat 14 (0x3F00 + (p.pixelColor px).toNat))) &&& 0x3F ∧
    (Claims.rendering p = true → q.scanline < 240 → 1 ≤ q.dot → q.dot ≤ 256 →
      q.sprite0Hit = (p.sprite0Hit || r.spriteZeroHits (q.dot - 1)) ∧
      ∀ x y : Nat, x < 256 → q.frame.read (256 * y + x) =
        if x = q.dot - 1 ∧ y = q.scanline then r.pixelByte (q.dot - 1) else p.frame.read (256 * y + x)) ∧
    (¬ (Claims.rendering p = true ∧ q.scanline < 240 ∧ 1 ≤ q.dot ∧ q.dot ≤ 256) →
      q.frame = p.frame ∧ (¬ (q.scanline = 261 ∧ q.dot = 1) → q.sprite0Hit = p.sprite0Hit))

/-- The background pipeline: a fold puts into the pixel `i` places from the left of the low half the palette number
and bits `7 - i` of the two planes, over what stood there. While rendering is enabled, a tick that ends on a fetch
dot of a render line shifts the register by one pixel and then, by the dot mod 8, fetches the nametable byte, the
attribute bits of the 16x16 quadrant or a pattern plane from its address, or folds; every other tick leaves the
pipeline (51_ppu R361, R364–R371). -/
def Obligations.BackgroundFold : Prop :=
  ∀ (cart : Option Cartridge) (params : Params) (p q r : Ppu) (tag : Pending) (i : Fin 8),
    q = (Ppu.tick cart params (p, tag)).1 → r = { p with tileData := p.tileData <<< 4 } →
    p.foldTile.tileData.extractLsb' (28 - 4 * i.val) 4 =
      (p.tileData.extractLsb' (28 - 4 * i.val) 4 ||| p.atBits |||
        BitVec.ofNat 4 (bitNat (p.ptLo.getLsbD (7 - i.val)) + 2 * bitNat (p.ptHi.getLsbD (7 - i.val)))) ∧
    p.foldTile.tileData.extractLsb' 32 32 = p.tileData.extractLsb' 32 32 ∧
    ((Claims.rendering p && Claims.renderLine q && Claims.fetchDot q) = true →
      q.tileData = (if q.dot % 8 = 0 then r.foldTile.tileData else r.tileData) ∧
      q.ntByte = (if q.dot % 8 = 1 then
        p.busRead cart params (BitVec.ofNat 14 (0x2000 + p.v.toNat % 0x1000)) else p.ntByte) ∧
      q.atBits = (if q.dot % 8 = 3 then
        BitVec.ofNat 4 (4 * ((p.busRead cart params (BitVec.ofNat 14 (Claims.attributeAddr p.v.toNat))).toNat /
          2 ^ (4 * bitNat (p.v.getLsbD 6) + 2 * bitNat (p.v.getLsbD 1)) % 4)) else p.atBits) ∧
      q.ptLo = (if q.dot % 8 = 5 then
        p.busRead cart params (BitVec.ofNat 14 (Claims.tileAddr p)) else p.ptLo) ∧
      q.ptHi = (if q.dot % 8 = 7 then
        p.busRead cart params (BitVec.ofNat 14 (Claims.tileAddr p + 8)) else p.ptHi)) ∧
    ((Claims.rendering p && Claims.renderLine q && Claims.fetchDot q) = false →
      q.tileData = p.tileData ∧ q.ntByte = p.ntByte ∧ q.atBits = p.atBits ∧ q.ptLo = p.ptLo ∧ q.ptHi = p.ptHi)

/-- The scroll updates of `v`, field by field: coarse X wraps from 31 to 0 and toggles the horizontal nametable;
fine Y carries into coarse Y, which wraps from 29 to 0 with a toggle of the vertical nametable and from 31 to 0
without; the reloads copy the horizontal, or the vertical, fields of `t`. A tick makes them at their dots of the
render lines while rendering is enabled, both increments at dot 256, and leaves `v` at every other dot and while
rendering is off; it never changes `t`, fine X or the toggle (51_ppu R361, R364, R365, R372–R374). -/
def Obligations.ScrollFields : Prop :=
  (∀ v t : BitVec 15,
      ((incrementX v).extractLsb' 0 5 = v.extractLsb' 0 5 + 1 ∧
        (incrementX v).getLsbD 10 = (v.getLsbD 10 ^^ decide (v.extractLsb' 0 5 = 31)) ∧
        (incrementX v).extractLsb' 5 5 = v.extractLsb' 5 5 ∧
        (incrementX v).extractLsb' 11 4 = v.extractLsb' 11 4) ∧
      ((incrementY v).extractLsb' 12 3 = v.extractLsb' 12 3 + 1 ∧
        (incrementY v).extractLsb' 5 5 =
          (if v.extractLsb' 12 3 ≠ 7 then v.extractLsb' 5 5
          else if v.extractLsb' 5 5 = 29 then 0 else v.extractLsb' 5 5 + 1) ∧
        (incrementY v).getLsbD 11 =
          (v.getLsbD 11 ^^ decide (v.extractLsb' 12 3 = 7 ∧ v.extractLsb' 5 5 = 29)) ∧
        (incrementY v).getLsbD 10 = v.getLsbD 10 ∧
        (incrementY v).extractLsb' 0 5 = v.extractLsb' 0 5) ∧
      ((copyX v t).extractLsb' 0 5 = t.extractLsb' 0 5 ∧ (copyX v t).getLsbD 10 = t.getLsbD 10 ∧
        (copyX v t).extractLsb' 5 5 = v.extractLsb' 5 5 ∧ (copyX v t).extractLsb' 11 4 = v.extractLsb' 11 4) ∧
      ((copyY v t).extractLsb' 0 5 = v.extractLsb' 0 5 ∧ (copyY v t).getLsbD 10 = v.getLsbD 10 ∧
        (copyY v t).extractLsb' 5 5 = t.extractLsb' 5 5 ∧ (copyY v t).extractLsb' 11 4 = t.extractLsb' 11 4)) ∧
  (∀ (cart : Option Cartridge) (params : Params) (p q : Ppu) (tag : Pending),
    q = (Ppu.tick cart params (p, tag)).1 →
    q.t = p.t ∧ q.fineX = p.fineX ∧ q.w = p.w ∧
    ((Claims.rendering p && Claims.renderLine q) = true → q.v =
      if q.dot = 256 then incrementY (incrementX p.v)
      else if q.dot = 257 then copyX p.v p.t
      else if q.scanline = 261 ∧ 280 ≤ q.dot ∧ q.dot ≤ 304 then copyY p.v p.t
      else if Claims.fetchDot q = true ∧ q.dot % 8 = 0 then incrementX p.v
      else p.v) ∧
    ((Claims.rendering p && Claims.renderLine q) = false → q.v = p.v))

/-! ### Load and reset -/

/-- The ROM load: the checks in their order, the first failure winning, and the cartridge of an image that passes
them all, which meets the cartridge's invariant; the rest of the state is as it was (52_cartridge R401–R406, R408). The
load starts while no `run` call is open, as every host operation does (StepStopsOnlyWhereNoStepExists). -/
def Obligations.RomLoad : Prop :=
  (∀ s : State, s.runStart = none →
    s.loadImage none = .next (some .illegalPointer, { s with cart := none })) ∧
  ∀ (s : State) (image : List Byte) (f6 f7 : Byte) (prgBanks chrBanks start : Nat),
    s.runStart = none → f6 = image.getD 6 0 → f7 = image.getD 7 0 →
    prgBanks = (image.getD 4 0).toNat → chrBanks = (image.getD 5 0).toNat →
    (start = if f6 &&& 0x04 = 0 then 16 else 528) →
    let sized := 16 ≤ image.length
    let signed := image.take 4 = [0x4E, 0x45, 0x53, 0x1A]
    let mapped := f6 &&& 0xF0 = 0 ∧ f7 &&& 0xF0 = 0
    let banked := Claims.bankCount prgBanks ∧ (chrBanks = 0 ∨ Claims.bankCount chrBanks)
    let whole := start + 16384 * prgBanks + 8192 * chrBanks ≤ image.length
    (¬ sized → s.loadImage (some image) = .next (some .illegalSize, { s with cart := none })) ∧
    (sized → ¬ signed → s.loadImage (some image) = .next (some .invalidSignature, { s with cart := none })) ∧
    (sized → signed → ¬ mapped →
      s.loadImage (some image) = .next (some .unsupportedMapper, { s with cart := none })) ∧
    (sized → signed → mapped → ¬ banked →
      s.loadImage (some image) = .next (some .illegalSize, { s with cart := none })) ∧
    (sized → signed → mapped → banked → ¬ whole →
      s.loadImage (some image) = .next (some .incompleteImage, { s with cart := none })) ∧
    (sized → signed → mapped → banked → whole → ∃ c,
      s.loadImage (some image) = .next (none, { s with cart := some c }) ∧ c.Inv ∧ c.mapper = 0 ∧
      c.prgMask + 1 = 16384 * prgBanks ∧ (∀ k < 16384 * prgBanks, c.prg.read k = image.getD (start + k) 0) ∧
      (c.chrIsRam = true ↔ chrBanks = 0) ∧
      c.chrMask + 1 = (if chrBanks = 0 then 8192 else 8192 * chrBanks) ∧
      (∀ k, c.chr.read k = if k < 8192 * chrBanks then image.getD (start + 16384 * prgBanks + k) 0 else 0) ∧
      c.mirroring = (if f6 &&& 0x08 ≠ 0 then .fourScreen else if f6 &&& 0x01 = 0 then .horizontal
        else .vertical))

/-- The reset operation on a loaded console, while no `run` call is open: PC from the vector, SP, P and the cycle
counter as 70_reset R460 gives them; the rest of the reset table, row by row, which is the spec's own choice
(10_state R60, D23, D25, D26, D29; log 13); the cartridge and the outside world, and the frames delivered, as they
were (logs 1, 5, 6, 12). It starts a state that meets the invariant, whatever stood before. State.reset is the
machine before a load (log 7). -/
def Obligations.ResetOperation : Prop :=
  ∀ (s : State) (c : Cartridge), s.cart = some c → s.runStart = none →
    ∃ t, s.resetOp = .next t ∧
      t.pc = Claims.vector s 0xFFFC ∧ t.sp = 0xFD ∧ t.p = 0x24 ∧ t.cycles = 0 ∧
      t.a = 0 ∧ t.x = 0 ∧ t.y = 0 ∧ t.pending = .none ∧ t.stall = 0 ∧ t.refused = false ∧ t.stubbed = false ∧
      t.ram = Mem.ofCells 2048 s.params.initialRam ∧
      t.ppu = {
        dot := s.params.resetDot, scanline := s.params.resetScanline, odd := false
        v := 0, t := 0, fineX := 0, w := false, ctrl := 0x00, mask := 0x00
        vblank := false, sprite0Hit := false, spriteOverflow := false
        oamAddr := 0x00, latch := 0x00, readBuffer := 0x00, oam := [], ciram := [], palette := []
        ntByte := 0, atBits := 0, ptLo := 0, ptHi := 0, tileData := 0
        sprCount := 0, slots := Vector.replicate 8 ⟨0, 0, false, 0⟩
        nmiPrevious := false, nmiDelay := 0, lastSynced := 0
        frame := [], frameReady := false, delivered := s.ppu.delivered } ∧
      (∀ k, t.ppu.oam.read k = 0x00 ∧ t.ppu.ciram.read k = 0x00 ∧ t.ppu.palette.read k = 0x00 ∧
        t.ppu.frame.read k = 0x00) ∧
      t.pad = ⟨false, 0, 0, 0⟩ ∧ t.cart = s.cart ∧ t.params = s.params ∧ t.irqLine = s.irqLine ∧
      t.inputs = s.inputs ∧ t.inputCalls = s.inputCalls ∧ t.runStart = none ∧
      (c.Inv → s.params.resetDot ≤ 340 → s.params.resetScanline ≤ 261 → t.Inv)
end

