-- ==== Sys2Proof/Laws/Mem.lean ====
section
/-! SUPPORT. What one read and one write of a memory do: a read after a write to the same place gives the value
written, a write leaves every other place alone, and every operation keeps the canonical form. -/

namespace Sys2Proof.Machine

theorem Mem.read_cons (k : Nat) (b : Byte) (m : Mem) (a : Nat) :
    Mem.read ((k, b) :: m) a = if k = a then b else Mem.read m a := rfl

@[simp] theorem Mem.read_nil (a : Nat) : Mem.read [] a = 0 := rfl

theorem Mem.read_erase (m : Mem) (a b : Nat) :
    (m.erase a).read b = if b = a then 0 else m.read b := by
  induction m with
  | nil => simp [Mem.erase]
  | cons c m ih =>
    obtain ⟨k, v⟩ := c
    have he : Mem.erase ((k, v) :: m) a = if k = a then Mem.erase m a else (k, v) :: Mem.erase m a := by
      by_cases hk : k = a <;> simp [Mem.erase, hk]
    rw [he, Mem.read_cons]
    by_cases hk : k = a
    · rw [if_pos hk, ih]
      by_cases hb : b = a
      · simp [hb]
      · simp [hb, hk, Ne.symm hb]
    · rw [if_neg hk, Mem.read_cons, ih]
      by_cases hb : b = a
      · simp [hb, hk]
      · simp [hb]

theorem Mem.read_insert_same (m : Mem) (a : Nat) (v : Byte) (h : ∀ c ∈ m, c.1 ≠ a) :
    (m.insert a v).read a = v := by
  induction m with
  | nil => simp [Mem.insert, Mem.read]
  | cons c m ih =>
    obtain ⟨k, w⟩ := c
    have hk : k ≠ a := h (k, w) (by simp)
    simp only [Mem.insert]
    split
    · simp [Mem.read]
    · simp [Mem.read, hk, ih fun c hc => h c (by simp [hc])]

theorem Mem.read_insert_other (m : Mem) (a b : Nat) (v : Byte) (h : b ≠ a) :
    (m.insert a v).read b = m.read b := by
  induction m with
  | nil => simp [Mem.insert, Mem.read, h.symm]
  | cons c m ih =>
    obtain ⟨k, w⟩ := c
    simp only [Mem.insert]
    split
    · simp [Mem.read, h.symm]
    · simp [Mem.read, ih]

theorem Mem.mem_erase (m : Mem) (a : Nat) (c : Host.Cell) : c ∈ m.erase a ↔ c ∈ m ∧ c.1 ≠ a := by
  simp [Mem.erase]

theorem Mem.mem_insert (m : Mem) (a : Nat) (v : Byte) (c : Host.Cell) :
    c ∈ m.insert a v ↔ c = (a, v) ∨ c ∈ m := by
  induction m with
  | nil => simp [Mem.insert]
  | cons d m ih =>
    simp only [Mem.insert]
    split
    · simp
    · simp [ih]; tauto

/-- A byte read after a write. -/
theorem Mem.read_write (m : Mem) (a b : Nat) (v : Byte) :
    (m.write a v).read b = if b = a then v else m.read b := by
  unfold Mem.write
  split
  · rename_i h; rw [Mem.read_erase]; simp [h]
  · by_cases hb : b = a
    · subst hb
      simp [Mem.read_insert_same (m.erase b) b v (fun c hc => ((Mem.mem_erase m b c).1 hc).2)]
    · rw [Mem.read_insert_other _ _ _ _ hb, Mem.read_erase]
      simp [hb]

@[simp] theorem Mem.read_write_same (m : Mem) (a : Nat) (v : Byte) : (m.write a v).read a = v := by
  simp [Mem.read_write]

theorem Mem.read_write_other (m : Mem) {a b : Nat} (v : Byte) (h : b ≠ a) :
    (m.write a v).read b = m.read b := by
  simp [Mem.read_write, h]

/-- A cell after a write is the one written or an old one elsewhere. -/
theorem Mem.mem_write (m : Mem) (a : Nat) (v : Byte) (c : Host.Cell) :
    c ∈ m.write a v ↔ (c = (a, v) ∧ v ≠ 0) ∨ (c ∈ m ∧ c.1 ≠ a) := by
  unfold Mem.write
  split
  · rename_i h; simp [Mem.mem_erase, h]
  · rename_i h
    rw [Mem.mem_insert, Mem.mem_erase]
    exact ⟨fun hc => hc.imp (fun e => ⟨e, h⟩) id, fun hc => hc.imp (fun e => e.1) id⟩

/-! ### The canonical form -/

theorem Mem.wf_nil : Mem.wf [] := by simp [Mem.wf]

theorem Mem.wf_erase (m : Mem) (a : Nat) (h : m.wf) : (m.erase a).wf :=
  ⟨h.1.filter _, fun c hc => h.2 c ((Mem.mem_erase m a c).1 hc).1⟩

theorem Mem.pairwise_insert (m : Mem) (a : Nat) (v : Byte) (h : m.Pairwise (fun c d => c.1 < d.1))
    (ha : ∀ c ∈ m, c.1 ≠ a) : (m.insert a v).Pairwise (fun c d => c.1 < d.1) := by
  induction m with
  | nil => simp [Mem.insert]
  | cons c m ih =>
    rw [List.pairwise_cons] at h
    have hc : c.1 ≠ a := ha c (by simp)
    simp only [Mem.insert]
    split
    · rename_i hlt
      refine List.pairwise_cons.2 ⟨fun d hd => ?_, List.pairwise_cons.2 h⟩
      rcases List.mem_cons.1 hd with rfl | hd
      · exact hlt
      · exact Nat.lt_trans hlt (h.1 d hd)
    · rename_i hge
      refine List.pairwise_cons.2 ⟨fun d hd => ?_, ih h.2 fun d hd => ha d (by simp [hd])⟩
      rcases (Mem.mem_insert m a v d).1 hd with rfl | hd
      · show c.1 < a
        omega
      · exact h.1 d hd

/-- A write keeps the canonical form. -/
theorem Mem.wf_write (m : Mem) (a : Nat) (v : Byte) (h : m.wf) : (m.write a v).wf := by
  refine ⟨?_, fun c hc => ?_⟩
  · unfold Mem.write
    split
    · exact (Mem.wf_erase m a h).1
    · exact Mem.pairwise_insert _ _ _ (Mem.wf_erase m a h).1
        fun c hc => ((Mem.mem_erase m a c).1 hc).2
  · rcases (Mem.mem_write m a v c).1 hc with ⟨rfl, hv⟩ | ⟨hc, -⟩
    · exact hv
    · exact h.2 c hc

theorem Mem.good_nil (n : Nat) : Mem.good [] n := ⟨Mem.wf_nil, by simp⟩

/-- A write inside the size keeps the canonical form and the size. -/
theorem Mem.good_write (m : Mem) (n a : Nat) (v : Byte) (h : m.good n) (ha : a < n) :
    (m.write a v).good n := by
  refine ⟨Mem.wf_write m a v h.1, fun c hc => ?_⟩
  rcases (Mem.mem_write m a v c).1 hc with ⟨rfl, -⟩ | ⟨hc, -⟩
  · exact ha
  · exact h.2 c hc

/-- The memory of given cells is canonical and inside its size. -/
theorem Mem.good_ofCells (n : Nat) (hn : 0 < n) (cells : List (Nat × Byte)) :
    (Mem.ofCells n cells).good n := by
  have key : ∀ (m : Mem), m.good n →
      (cells.foldl (fun (m : Mem) c => m.write (c.1 % n) c.2) m : Mem).good n := by
    induction cells with
    | nil => exact fun m h => h
    | cons c cells ih => exact fun m h => ih _ (Mem.good_write m n _ _ h (Nat.mod_lt _ hn))
  exact key [] (Mem.good_nil n)

/-- The cells of a byte string from address `k` up lie in its range, and are canonical. -/
theorem Mem.wf_ofBytes (bs : List Byte) : ∀ k : Nat,
    (Mem.ofBytes k bs).wf ∧ ∀ c ∈ Mem.ofBytes k bs, k ≤ c.1 ∧ c.1 < k + bs.length := by
  induction bs with
  | nil => intro k; exact ⟨Mem.wf_nil, by simp [Mem.ofBytes]⟩
  | cons b bs ih =>
    intro k
    obtain ⟨hw, hr⟩ := ih (k + 1)
    simp only [Mem.ofBytes]
    split
    · refine ⟨hw, fun c hc => ?_⟩
      have := hr c hc
      simp only [List.length_cons]
      omega
    · rename_i hb
      refine ⟨⟨List.pairwise_cons.2 ⟨fun c hc => (hr c hc).1, hw.1⟩, fun c hc => ?_⟩, fun c hc => ?_⟩
      · rcases List.mem_cons.1 hc with rfl | hc
        · exact hb
        · exact hw.2 c hc
      · simp only [List.length_cons]
        rcases List.mem_cons.1 hc with rfl | hc
        · simp
        · have := hr c hc
          omega

/-- The byte at each address of a byte string's memory. -/
theorem Mem.read_ofBytes (bs : List Byte) : ∀ k a : Nat,
    (Mem.ofBytes k bs).read a = if k ≤ a then bs.getD (a - k) 0 else 0 := by
  induction bs with
  | nil => intro k a; simp [Mem.ofBytes]
  | cons b bs ih =>
    intro k a
    have hlow : ¬ k + 1 ≤ k := by omega
    by_cases hk : a = k
    · subst hk
      by_cases hb : b = 0
      · simp [Mem.ofBytes, hb, ih, hlow]
      · rw [Mem.ofBytes, if_neg hb, Mem.read_cons]
        simp
    · have hread : (Mem.ofBytes k (b :: bs)).read a = (Mem.ofBytes (k + 1) bs).read a := by
        simp only [Mem.ofBytes]
        split
        · rfl
        · simp [Mem.read, Ne.symm hk]
      rw [hread, ih]
      by_cases hle : k ≤ a
      · have h1 : k + 1 ≤ a := by omega
        have h2 : a - k = (a - (k + 1)) + 1 := by omega
        rw [if_pos h1, if_pos hle, h2, List.getD_cons_succ]
      · have h1 : ¬ k + 1 ≤ a := by omega
        rw [if_neg h1, if_neg hle]

end Sys2Proof.Machine
end

