-- ==== Sys2Proof/Laws/Ppu.lean ====
section
/-! SUPPORT. What the picture processor's operations can do: a tick changes none of the registers and memories a
CPU access sees but `v` and the three status flags, and every tick and every register access keeps `Ppu.Inv`. -/

namespace Sys2Proof.Machine

/-- The registers and memories that no tick changes (51_ppu R365, R374; 50_ppu R321–R346). -/
structure Ppu.SameRegisters (p q : Ppu) : Prop where
  oam : q.oam = p.oam
  ciram : q.ciram = p.ciram
  palette : q.palette = p.palette
  ctrl : q.ctrl = p.ctrl
  mask : q.mask = p.mask
  t : q.t = p.t
  fineX : q.fineX = p.fineX
  w : q.w = p.w
  oamAddr : q.oamAddr = p.oamAddr
  latch : q.latch = p.latch
  readBuffer : q.readBuffer = p.readBuffer
  lastSynced : q.lastSynced = p.lastSynced

theorem Ppu.SameRegisters.refl (p : Ppu) : p.SameRegisters p :=
  ⟨rfl, rfl, rfl, rfl, rfl, rfl, rfl, rfl, rfl, rfl, rfl, rfl⟩

theorem Ppu.SameRegisters.trans {p q r : Ppu} (h : p.SameRegisters q) (k : q.SameRegisters r) :
    p.SameRegisters r :=
  ⟨k.oam.trans h.oam, k.ciram.trans h.ciram, k.palette.trans h.palette, k.ctrl.trans h.ctrl,
    k.mask.trans h.mask, k.t.trans h.t, k.fineX.trans h.fineX, k.w.trans h.w, k.oamAddr.trans h.oamAddr,
    k.latch.trans h.latch, k.readBuffer.trans h.readBuffer, k.lastSynced.trans h.lastSynced⟩

/-- A conditional sub-step changes what its action changes. -/
theorem Ppu.SameRegisters.ite {p q : Ppu} (c : Bool) (h : p.SameRegisters q) :
    p.SameRegisters (if c then q else p) := by
  cases c
  · exact .refl p
  · exact h

/-! ### The sub-steps of a tick change no register -/

variable (cart : Option Cartridge) (params : Params) (p : Ppu)

theorem Ppu.nmiCountdown_same : p.SameRegisters p.nmiCountdown := by
  constructor <;> rfl

theorem Ppu.nmiChange_same : p.SameRegisters (Ppu.nmiChange params p) := by
  constructor <;> rfl

theorem Ppu.advance_same : p.SameRegisters p.advance := by
  unfold Ppu.advance
  split
  · constructor <;> rfl
  split
  · constructor <;> rfl
  split <;> constructor <;> rfl

theorem Ppu.renderPixel_same : p.SameRegisters p.renderPixel := by
  constructor <;> rfl

theorem Ppu.backgroundFetch_same : p.SameRegisters (p.backgroundFetch cart params) := by
  unfold Ppu.backgroundFetch
  simp only
  split <;> constructor <;> rfl

theorem Ppu.scrollStep_same : p.SameRegisters p.scrollStep := by
  have step : ∀ (q : Ppu) (v : BitVec 15), q.SameRegisters { q with v := v } := by
    intro q v; constructor <;> rfl
  exact ((Ppu.SameRegisters.ite _ (step p _)).trans (.ite _ (step _ _))).trans (.ite _ (step _ _))

theorem Ppu.evaluateSprites_same : p.SameRegisters (p.evaluateSprites cart params) := by
  constructor <;> rfl

theorem Ppu.spriteStep_same : p.SameRegisters (p.spriteStep cart params) := by
  unfold Ppu.spriteStep
  split
  · split
    · exact p.evaluateSprites_same cart params
    · constructor <;> rfl
  · exact .refl p

theorem Ppu.renderStep_same : p.SameRegisters (p.renderStep cart params) := by
  have step : ∀ (q : Ppu) (v : BitVec 15), q.SameRegisters { q with v := v } := by
    intro q v; constructor <;> rfl
  exact ((((Ppu.SameRegisters.ite _ (Ppu.renderPixel_same p)).trans
    (.ite _ (Ppu.backgroundFetch_same cart params _))).trans (.ite _ (step _ _))).trans
    (.ite _ (Ppu.scrollStep_same _))).trans (Ppu.spriteStep_same cart params _)

theorem Ppu.vblankBegin_same : p.SameRegisters (p.vblankBegin params) := by
  constructor <;> rfl

theorem Ppu.flagsClear_same : p.SameRegisters (p.flagsClear params) := by
  constructor <;> rfl

theorem Ppu.sequence_same : p.SameRegisters (p.sequence cart params) :=
  (((Ppu.advance_same p).trans (.ite _ (Ppu.renderStep_same cart params _))).trans
    (.ite _ (Ppu.vblankBegin_same params _))).trans (.ite _ (Ppu.flagsClear_same params _))

/-- What one tick leaves unchanged. -/
theorem Ppu.tick_same (s : Ppu × Pending) : s.1.SameRegisters (Ppu.tick cart params s).1 :=
  (Ppu.nmiCountdown_same s.1).trans (Ppu.sequence_same cart params _)

/-- What any number of ticks leaves unchanged. -/
theorem Ppu.ticks_same (n : Nat) : ∀ s : Ppu × Pending, s.1.SameRegisters (Ppu.ticks cart params n s).1 := by
  induction n with
  | zero => exact fun s => .refl s.1
  | succ n ih => exact fun s => (Ppu.tick_same cart params s).trans (ih _)

/-! ### The invariant -/

variable {params} {p}

/-- A conditional sub-step keeps the invariant if its action does. -/
theorem Ppu.Inv.ite {q : Ppu} (c : Bool) (hp : p.Inv params) (hq : p.Inv params → q.Inv params) :
    (if c then q else p).Inv params := by
  cases c
  · exact hp
  · exact hq hp

theorem Ppu.Inv.setV (h : p.Inv params) (v : BitVec 15) : Ppu.Inv params { p with v := v } :=
  { h with }

theorem Ppu.Inv.nmiCountdown (h : p.Inv params) : p.nmiCountdown.Inv params :=
  { h with
    line := h.line
    delay := Nat.le_trans (Nat.sub_le _ _) h.delay }

/-- The edge detector settles the line, whatever `ctrl` and `vblank` were set to before it. -/
theorem Ppu.Inv.nmiChange (h : p.Inv params) (ctrl : Byte) (vblank : Bool) :
    (Ppu.nmiChange params { p with ctrl := ctrl, vblank := vblank }).Inv params :=
  { h with
    line := rfl
    delay := by
      show (if _ then params.nmiDelayTicks else p.nmiDelay) ≤ _
      split
      · exact Nat.le_refl _
      · exact h.delay }

theorem Ppu.Inv.advance (h : p.Inv params) : p.advance.Inv params := by
  unfold Ppu.advance
  have hd := h.dot
  have hs := h.scanline
  split
  · exact { h with dot := by simp, scanline := by simp }
  split
  · exact { h with dot := by simp only; omega }
  split
  · exact { h with dot := by simp, scanline := by simp only; omega }
  · exact { h with dot := by simp, scanline := by simp }

/-- A 6-bit palette index. -/
theorem toNat_and_3F (b : Byte) : (b &&& 0x3F).toNat < 64 := by
  have : (b &&& 0x3F).toNat ≤ 0x3F := by
    rw [BitVec.toNat_and]
    exact Nat.and_le_right
  omega

/-- A pixel of a visible line and dot lies in the frame buffer. -/
theorem Ppu.Inv.renderPixel (h : p.Inv params) (hl : p.visibleLine = true) (hd : p.visibleDot = true) :
    p.renderPixel.Inv params := by
  have hline : p.scanline < 240 := by simpa [Ppu.visibleLine] using hl
  have hdot : 1 ≤ p.dot ∧ p.dot ≤ 256 := by simpa [Ppu.visibleDot] using hd
  have ha : 256 * p.scanline + (p.dot - 1) < 61440 := by omega
  exact { h with
    line := h.line
    frame := Mem.good_write _ _ _ _ h.frame ha
    pixels := fun c hc => by
      rcases (Mem.mem_write _ _ _ c).1 hc with ⟨rfl, -⟩ | ⟨hc, -⟩
      · exact toNat_and_3F _
      · exact h.pixels c hc }

theorem Ppu.Inv.backgroundFetch (h : p.Inv params) : (p.backgroundFetch cart params).Inv params := by
  unfold Ppu.backgroundFetch
  simp only
  split <;> exact { h with }

theorem Ppu.Inv.scrollStep (h : p.Inv params) : p.scrollStep.Inv params :=
  Ppu.Inv.ite _ (Ppu.Inv.ite _ (Ppu.Inv.ite _ h fun h => h.setV _) fun h => h.setV _) fun h => h.setV _

/-- A slot after slots were filled is a new one or an old one. -/
theorem mem_fillSlots (new : List SpriteSlot) : ∀ (slots : Vector SpriteSlot 8) (k : Nat) (s : SpriteSlot),
    s ∈ (fillSlots slots k new).toList → s ∈ new ∨ s ∈ slots.toList := by
  induction new with
  | nil => exact fun slots k s h => .inr h
  | cons n new ih =>
    intro slots k s h
    rcases ih _ _ _ h with h | h
    · exact .inl (List.mem_cons_of_mem _ h)
    · have h' : s ∈ slots.toList.set k n := by simpa using h
      rcases List.mem_or_eq_of_mem_set h' with h' | rfl
      · exact .inr h'
      · exact .inl List.mem_cons_self

theorem Ppu.Inv.evaluateSprites (h : p.Inv params) : (p.evaluateSprites cart params).Inv params :=
  { h with
    line := h.line
    sprCount := Nat.min_le_right _ _
    slots := fun s hs => by
      rcases mem_fillSlots _ _ _ _ hs with hs | hs
      · obtain ⟨n, hn, rfl⟩ := List.mem_map.1 hs
        have : n ∈ List.range 64 := (List.mem_filter.1 (List.mem_of_mem_take hn)).1
        exact List.mem_range.1 this
      · exact h.slots s hs }

theorem Ppu.Inv.spriteStep (h : p.Inv params) : (p.spriteStep cart params).Inv params := by
  unfold Ppu.spriteStep
  split
  · split
    · exact h.evaluateSprites cart
    · exact { h with sprCount := Nat.zero_le _ }
  · exact h

theorem Ppu.Inv.renderStep (h : p.Inv params) : (p.renderStep cart params).Inv params := by
  have h1 : (if p.visibleLine && p.visibleDot then p.renderPixel else p).Inv params := by
    split
    · rename_i hv
      rw [Bool.and_eq_true] at hv
      exact h.renderPixel hv.1 hv.2
    · exact h
  exact Ppu.Inv.spriteStep cart (Ppu.Inv.ite _ (Ppu.Inv.ite _ (Ppu.Inv.ite _ h1
    fun h => h.backgroundFetch cart) fun h => h.setV _) fun h => h.scrollStep)

theorem Ppu.Inv.vblankBegin (h : p.Inv params) : (p.vblankBegin params).Inv params :=
  { h.nmiChange p.ctrl true with line := rfl }

theorem Ppu.Inv.flagsClear (h : p.Inv params) : (p.flagsClear params).Inv params :=
  { h.nmiChange p.ctrl false with line := rfl }

theorem Ppu.Inv.sequence (h : p.Inv params) : (p.sequence cart params).Inv params := by
  exact Ppu.Inv.ite _ (Ppu.Inv.ite _ (Ppu.Inv.ite _ h.advance fun h => h.renderStep cart)
    fun h => h.vblankBegin) fun h => h.flagsClear

/-- Every tick keeps the invariant. -/
theorem Ppu.Inv.tick (pending : Pending) (h : p.Inv params) :
    (Ppu.tick cart params (p, pending)).1.Inv params :=
  h.nmiCountdown.sequence cart

/-- Any number of ticks keeps the invariant. -/
theorem Ppu.Inv.ticks (n : Nat) : ∀ (p : Ppu) (pending : Pending), p.Inv params →
    (Ppu.ticks cart params n (p, pending)).1.Inv params := by
  induction n with
  | zero => exact fun p _ h => h
  | succ n ih => exact fun p pending h => ih _ _ (h.tick cart pending)

/-! ### Register accesses -/

variable {cart}

theorem mirror_lt (mode : Mirroring) (m : Vector (Fin 2) 4) (q : Fin 4) : (mirror mode m q).val < 2 :=
  (mirror mode m q).isLt

theorem ciramIndex_lt (a : BitVec 14) : ciramIndex cart params a < 2048 := by
  unfold ciramIndex
  have h1 := mirror_lt (cartMirroring cart) params.fourScreenMap (quadrant a)
  have h2 : (a &&& 0x3FF).toNat ≤ 0x3FF := by
    rw [BitVec.toNat_and]
    exact Nat.and_le_right
  omega

theorem palIndex_lt (a : BitVec 14) : palIndex a < 32 := by
  have h : (a &&& 0x1F).toNat ≤ 0x1F := by
    rw [BitVec.toNat_and]
    exact Nat.and_le_right
  unfold palIndex
  simp only
  split <;> omega

/-- No palette address lands on an alias. -/
theorem paletteAlias_palIndex (a : BitVec 14) : paletteAlias (palIndex a) = false := by
  have h : (a &&& 0x1F).toNat ≤ 0x1F := by
    rw [BitVec.toNat_and]
    exact Nat.and_le_right
  unfold palIndex paletteAlias
  simp only [Bool.and_eq_false_iff, decide_eq_false_iff_not, beq_eq_false_iff_ne]
  split <;> omega

theorem Ppu.Inv.writeOam (h : p.Inv params) (d : Byte) : (p.writeOam d).Inv params :=
  { h with
    line := h.line
    oam := Mem.good_write _ _ _ _ h.oam p.oamAddr.isLt }

theorem Ppu.Inv.busWrite (h : p.Inv params) (a : BitVec 14) (d : Byte) :
    (p.busWrite cart params a d).1.Inv params := by
  unfold Ppu.busWrite
  split
  · exact h
  split
  · exact { h with line := h.line, ciram := Mem.good_write _ _ _ _ h.ciram (ciramIndex_lt a) }
  · exact { h with
      line := h.line
      palette := Mem.good_write _ _ _ _ h.palette (palIndex_lt a)
      aliases := fun c hc => by
        rcases (Mem.mem_write _ _ _ c).1 hc with ⟨rfl, -⟩ | ⟨hc, -⟩
        · exact paletteAlias_palIndex a
        · exact h.aliases c hc }

/-- Every register read keeps the invariant. -/
theorem Ppu.Inv.readReg (h : p.Inv params) (r : BitVec 3) : (p.readReg cart params r).2.Inv params := by
  unfold Ppu.readReg
  split
  · exact { h.nmiChange p.ctrl false with line := rfl }
  split
  · exact h
  split
  · exact { h with line := h.line }
  · exact h

/-- Every register write keeps the invariant. -/
theorem Ppu.Inv.writeReg (h : p.Inv params) (r : BitVec 3) (d : Byte) :
    (p.writeReg cart params r d).1.Inv params := by
  have h' : Ppu.Inv params { p with latch := d } := { h with line := h.line }
  unfold Ppu.writeReg Ppu.writeRegEffect
  split
  · exact { h.nmiChange d p.vblank with line := rfl }
  split
  · exact { h' with line := h.line }
  split
  · exact { h' with line := h.line }
  split
  · exact h'.writeOam d
  split
  · unfold Ppu.writeScroll
    split <;> exact { h' with line := h.line }
  split
  · unfold Ppu.writeAddr
    split <;> exact { h' with line := h.line }
  split
  · have hb := h'.busWrite (cart := cart) (Ppu.dataAddr { p with latch := d }) d
    exact { hb with line := hb.line }
  · exact h'

/-! ### The cartridge -/

@[simp] theorem Cartridge.writeChr_prg (c : Cartridge) (a : BitVec 14) (d : Byte) :
    (c.writeChr a d).prg = c.prg := by
  unfold Cartridge.writeChr
  split <;> rfl

@[simp] theorem Cartridge.writeChr_prgMask (c : Cartridge) (a : BitVec 14) (d : Byte) :
    (c.writeChr a d).prgMask = c.prgMask := by
  unfold Cartridge.writeChr
  split <;> rfl

@[simp] theorem Cartridge.writeChr_chrMask (c : Cartridge) (a : BitVec 14) (d : Byte) :
    (c.writeChr a d).chrMask = c.chrMask := by
  unfold Cartridge.writeChr
  split <;> rfl

@[simp] theorem Cartridge.writeChr_chrIsRam (c : Cartridge) (a : BitVec 14) (d : Byte) :
    (c.writeChr a d).chrIsRam = c.chrIsRam := by
  unfold Cartridge.writeChr
  split <;> rfl

@[simp] theorem Cartridge.writeChr_mirroring (c : Cartridge) (a : BitVec 14) (d : Byte) :
    (c.writeChr a d).mirroring = c.mirroring := by
  unfold Cartridge.writeChr
  split <;> rfl

@[simp] theorem Cartridge.writeChr_mapper (c : Cartridge) (a : BitVec 14) (d : Byte) :
    (c.writeChr a d).mapper = c.mapper := by
  unfold Cartridge.writeChr
  split <;> rfl

/-- CHR ROM is not writable (52_cartridge R411). -/
theorem Cartridge.writeChr_rom (c : Cartridge) (a : BitVec 14) (d : Byte) (h : c.chrIsRam = false) :
    c.writeChr a d = c := by
  simp [Cartridge.writeChr, h]

theorem Cartridge.Inv.writeChr {c : Cartridge} (h : c.Inv) (a : BitVec 14) (d : Byte) :
    (c.writeChr a d).Inv := by
  unfold Cartridge.writeChr
  split
  · exact { h with chr := Mem.good_write _ _ _ _ h.chr (Nat.lt_succ_of_le Nat.and_le_right) }
  · exact h

/-- A PPU bus write keeps the cartridge's invariant. -/
theorem busWrite_cart_inv (h : ∀ c, cart = some c → c.Inv) (a : BitVec 14) (d : Byte) :
    ∀ c, (p.busWrite cart params a d).2 = some c → c.Inv := by
  intro c hc
  unfold Ppu.busWrite at hc
  split at hc
  · obtain ⟨c', hc', rfl⟩ := Option.map_eq_some_iff.1 hc
    exact (h c' hc').writeChr a d
  split at hc <;> exact h c hc

/-- A register write changes the cartridge only through a write of the data port. -/
theorem writeReg_cart (r : BitVec 3) (d : Byte) :
    (p.writeReg cart params r d).2 =
      if r = 7 then (Ppu.busWrite cart params { p with latch := d } p.dataAddr d).2 else cart := by
  unfold Ppu.writeReg Ppu.writeRegEffect
  repeat' split
  all_goals first | rfl | simp_all

/-- Every register write keeps the cartridge's invariant. -/
theorem writeReg_cart_inv (h : ∀ c, cart = some c → c.Inv) (r : BitVec 3) (d : Byte) :
    ∀ c, (p.writeReg cart params r d).2 = some c → c.Inv := by
  rw [writeReg_cart]
  split
  · exact busWrite_cart_inv h _ _
  · exact h

end Sys2Proof.Machine
end

