-- ==== Sys2Proof/Laws/State.lean ====
section
/-! SUPPORT. One lemma for each field and each named update of the state, true by definition, so that no
proof unfolds a record update. -/

namespace Sys2Proof.Machine

variable (s : State)

@[simp] theorem State.setA_a (v : Byte) : (s.setA v).a = v := rfl
@[simp] theorem State.setA_x (v : Byte) : (s.setA v).x = s.x := rfl
@[simp] theorem State.setA_y (v : Byte) : (s.setA v).y = s.y := rfl
@[simp] theorem State.setA_sp (v : Byte) : (s.setA v).sp = s.sp := rfl
@[simp] theorem State.setA_pc (v : Byte) : (s.setA v).pc = s.pc := rfl
@[simp] theorem State.setA_p (v : Byte) : (s.setA v).p = s.p := rfl
@[simp] theorem State.setA_cycles (v : Byte) : (s.setA v).cycles = s.cycles := rfl
@[simp] theorem State.setA_pending (v : Byte) : (s.setA v).pending = s.pending := rfl
@[simp] theorem State.setA_stall (v : Byte) : (s.setA v).stall = s.stall := rfl
@[simp] theorem State.setA_refused (v : Byte) : (s.setA v).refused = s.refused := rfl
@[simp] theorem State.setA_stubbed (v : Byte) : (s.setA v).stubbed = s.stubbed := rfl
@[simp] theorem State.setA_ram (v : Byte) : (s.setA v).ram = s.ram := rfl
@[simp] theorem State.setA_ppu (v : Byte) : (s.setA v).ppu = s.ppu := rfl
@[simp] theorem State.setA_pad (v : Byte) : (s.setA v).pad = s.pad := rfl
@[simp] theorem State.setA_cart (v : Byte) : (s.setA v).cart = s.cart := rfl
@[simp] theorem State.setA_params (v : Byte) : (s.setA v).params = s.params := rfl
@[simp] theorem State.setA_irqLine (v : Byte) : (s.setA v).irqLine = s.irqLine := rfl
@[simp] theorem State.setA_inputs (v : Byte) : (s.setA v).inputs = s.inputs := rfl
@[simp] theorem State.setA_inputCalls (v : Byte) : (s.setA v).inputCalls = s.inputCalls := rfl
@[simp] theorem State.setA_runStart (v : Byte) : (s.setA v).runStart = s.runStart := rfl

@[simp] theorem State.setX_a (v : Byte) : (s.setX v).a = s.a := rfl
@[simp] theorem State.setX_x (v : Byte) : (s.setX v).x = v := rfl
@[simp] theorem State.setX_y (v : Byte) : (s.setX v).y = s.y := rfl
@[simp] theorem State.setX_sp (v : Byte) : (s.setX v).sp = s.sp := rfl
@[simp] theorem State.setX_pc (v : Byte) : (s.setX v).pc = s.pc := rfl
@[simp] theorem State.setX_p (v : Byte) : (s.setX v).p = s.p := rfl
@[simp] theorem State.setX_cycles (v : Byte) : (s.setX v).cycles = s.cycles := rfl
@[simp] theorem State.setX_pending (v : Byte) : (s.setX v).pending = s.pending := rfl
@[simp] theorem State.setX_stall (v : Byte) : (s.setX v).stall = s.stall := rfl
@[simp] theorem State.setX_refused (v : Byte) : (s.setX v).refused = s.refused := rfl
@[simp] theorem State.setX_stubbed (v : Byte) : (s.setX v).stubbed = s.stubbed := rfl
@[simp] theorem State.setX_ram (v : Byte) : (s.setX v).ram = s.ram := rfl
@[simp] theorem State.setX_ppu (v : Byte) : (s.setX v).ppu = s.ppu := rfl
@[simp] theorem State.setX_pad (v : Byte) : (s.setX v).pad = s.pad := rfl
@[simp] theorem State.setX_cart (v : Byte) : (s.setX v).cart = s.cart := rfl
@[simp] theorem State.setX_params (v : Byte) : (s.setX v).params = s.params := rfl
@[simp] theorem State.setX_irqLine (v : Byte) : (s.setX v).irqLine = s.irqLine := rfl
@[simp] theorem State.setX_inputs (v : Byte) : (s.setX v).inputs = s.inputs := rfl
@[simp] theorem State.setX_inputCalls (v : Byte) : (s.setX v).inputCalls = s.inputCalls := rfl
@[simp] theorem State.setX_runStart (v : Byte) : (s.setX v).runStart = s.runStart := rfl

@[simp] theorem State.setY_a (v : Byte) : (s.setY v).a = s.a := rfl
@[simp] theorem State.setY_x (v : Byte) : (s.setY v).x = s.x := rfl
@[simp] theorem State.setY_y (v : Byte) : (s.setY v).y = v := rfl
@[simp] theorem State.setY_sp (v : Byte) : (s.setY v).sp = s.sp := rfl
@[simp] theorem State.setY_pc (v : Byte) : (s.setY v).pc = s.pc := rfl
@[simp] theorem State.setY_p (v : Byte) : (s.setY v).p = s.p := rfl
@[simp] theorem State.setY_cycles (v : Byte) : (s.setY v).cycles = s.cycles := rfl
@[simp] theorem State.setY_pending (v : Byte) : (s.setY v).pending = s.pending := rfl
@[simp] theorem State.setY_stall (v : Byte) : (s.setY v).stall = s.stall := rfl
@[simp] theorem State.setY_refused (v : Byte) : (s.setY v).refused = s.refused := rfl
@[simp] theorem State.setY_stubbed (v : Byte) : (s.setY v).stubbed = s.stubbed := rfl
@[simp] theorem State.setY_ram (v : Byte) : (s.setY v).ram = s.ram := rfl
@[simp] theorem State.setY_ppu (v : Byte) : (s.setY v).ppu = s.ppu := rfl
@[simp] theorem State.setY_pad (v : Byte) : (s.setY v).pad = s.pad := rfl
@[simp] theorem State.setY_cart (v : Byte) : (s.setY v).cart = s.cart := rfl
@[simp] theorem State.setY_params (v : Byte) : (s.setY v).params = s.params := rfl
@[simp] theorem State.setY_irqLine (v : Byte) : (s.setY v).irqLine = s.irqLine := rfl
@[simp] theorem State.setY_inputs (v : Byte) : (s.setY v).inputs = s.inputs := rfl
@[simp] theorem State.setY_inputCalls (v : Byte) : (s.setY v).inputCalls = s.inputCalls := rfl
@[simp] theorem State.setY_runStart (v : Byte) : (s.setY v).runStart = s.runStart := rfl

@[simp] theorem State.setSP_a (v : Byte) : (s.setSP v).a = s.a := rfl
@[simp] theorem State.setSP_x (v : Byte) : (s.setSP v).x = s.x := rfl
@[simp] theorem State.setSP_y (v : Byte) : (s.setSP v).y = s.y := rfl
@[simp] theorem State.setSP_sp (v : Byte) : (s.setSP v).sp = v := rfl
@[simp] theorem State.setSP_pc (v : Byte) : (s.setSP v).pc = s.pc := rfl
@[simp] theorem State.setSP_p (v : Byte) : (s.setSP v).p = s.p := rfl
@[simp] theorem State.setSP_cycles (v : Byte) : (s.setSP v).cycles = s.cycles := rfl
@[simp] theorem State.setSP_pending (v : Byte) : (s.setSP v).pending = s.pending := rfl
@[simp] theorem State.setSP_stall (v : Byte) : (s.setSP v).stall = s.stall := rfl
@[simp] theorem State.setSP_refused (v : Byte) : (s.setSP v).refused = s.refused := rfl
@[simp] theorem State.setSP_stubbed (v : Byte) : (s.setSP v).stubbed = s.stubbed := rfl
@[simp] theorem State.setSP_ram (v : Byte) : (s.setSP v).ram = s.ram := rfl
@[simp] theorem State.setSP_ppu (v : Byte) : (s.setSP v).ppu = s.ppu := rfl
@[simp] theorem State.setSP_pad (v : Byte) : (s.setSP v).pad = s.pad := rfl
@[simp] theorem State.setSP_cart (v : Byte) : (s.setSP v).cart = s.cart := rfl
@[simp] theorem State.setSP_params (v : Byte) : (s.setSP v).params = s.params := rfl
@[simp] theorem State.setSP_irqLine (v : Byte) : (s.setSP v).irqLine = s.irqLine := rfl
@[simp] theorem State.setSP_inputs (v : Byte) : (s.setSP v).inputs = s.inputs := rfl
@[simp] theorem State.setSP_inputCalls (v : Byte) : (s.setSP v).inputCalls = s.inputCalls := rfl
@[simp] theorem State.setSP_runStart (v : Byte) : (s.setSP v).runStart = s.runStart := rfl

@[simp] theorem State.setPC_a (w : Word) : (s.setPC w).a = s.a := rfl
@[simp] theorem State.setPC_x (w : Word) : (s.setPC w).x = s.x := rfl
@[simp] theorem State.setPC_y (w : Word) : (s.setPC w).y = s.y := rfl
@[simp] theorem State.setPC_sp (w : Word) : (s.setPC w).sp = s.sp := rfl
@[simp] theorem State.setPC_pc (w : Word) : (s.setPC w).pc = w := rfl
@[simp] theorem State.setPC_p (w : Word) : (s.setPC w).p = s.p := rfl
@[simp] theorem State.setPC_cycles (w : Word) : (s.setPC w).cycles = s.cycles := rfl
@[simp] theorem State.setPC_pending (w : Word) : (s.setPC w).pending = s.pending := rfl
@[simp] theorem State.setPC_stall (w : Word) : (s.setPC w).stall = s.stall := rfl
@[simp] theorem State.setPC_refused (w : Word) : (s.setPC w).refused = s.refused := rfl
@[simp] theorem State.setPC_stubbed (w : Word) : (s.setPC w).stubbed = s.stubbed := rfl
@[simp] theorem State.setPC_ram (w : Word) : (s.setPC w).ram = s.ram := rfl
@[simp] theorem State.setPC_ppu (w : Word) : (s.setPC w).ppu = s.ppu := rfl
@[simp] theorem State.setPC_pad (w : Word) : (s.setPC w).pad = s.pad := rfl
@[simp] theorem State.setPC_cart (w : Word) : (s.setPC w).cart = s.cart := rfl
@[simp] theorem State.setPC_params (w : Word) : (s.setPC w).params = s.params := rfl
@[simp] theorem State.setPC_irqLine (w : Word) : (s.setPC w).irqLine = s.irqLine := rfl
@[simp] theorem State.setPC_inputs (w : Word) : (s.setPC w).inputs = s.inputs := rfl
@[simp] theorem State.setPC_inputCalls (w : Word) : (s.setPC w).inputCalls = s.inputCalls := rfl
@[simp] theorem State.setPC_runStart (w : Word) : (s.setPC w).runStart = s.runStart := rfl

@[simp] theorem State.setP_a (v : Byte) : (s.setP v).a = s.a := rfl
@[simp] theorem State.setP_x (v : Byte) : (s.setP v).x = s.x := rfl
@[simp] theorem State.setP_y (v : Byte) : (s.setP v).y = s.y := rfl
@[simp] theorem State.setP_sp (v : Byte) : (s.setP v).sp = s.sp := rfl
@[simp] theorem State.setP_pc (v : Byte) : (s.setP v).pc = s.pc := rfl
@[simp] theorem State.setP_p (v : Byte) : (s.setP v).p = v := rfl
@[simp] theorem State.setP_cycles (v : Byte) : (s.setP v).cycles = s.cycles := rfl
@[simp] theorem State.setP_pending (v : Byte) : (s.setP v).pending = s.pending := rfl
@[simp] theorem State.setP_stall (v : Byte) : (s.setP v).stall = s.stall := rfl
@[simp] theorem State.setP_refused (v : Byte) : (s.setP v).refused = s.refused := rfl
@[simp] theorem State.setP_stubbed (v : Byte) : (s.setP v).stubbed = s.stubbed := rfl
@[simp] theorem State.setP_ram (v : Byte) : (s.setP v).ram = s.ram := rfl
@[simp] theorem State.setP_ppu (v : Byte) : (s.setP v).ppu = s.ppu := rfl
@[simp] theorem State.setP_pad (v : Byte) : (s.setP v).pad = s.pad := rfl
@[simp] theorem State.setP_cart (v : Byte) : (s.setP v).cart = s.cart := rfl
@[simp] theorem State.setP_params (v : Byte) : (s.setP v).params = s.params := rfl
@[simp] theorem State.setP_irqLine (v : Byte) : (s.setP v).irqLine = s.irqLine := rfl
@[simp] theorem State.setP_inputs (v : Byte) : (s.setP v).inputs = s.inputs := rfl
@[simp] theorem State.setP_inputCalls (v : Byte) : (s.setP v).inputCalls = s.inputCalls := rfl
@[simp] theorem State.setP_runStart (v : Byte) : (s.setP v).runStart = s.runStart := rfl

@[simp] theorem State.addCycles_a (n : Nat) : (s.addCycles n).a = s.a := rfl
@[simp] theorem State.addCycles_x (n : Nat) : (s.addCycles n).x = s.x := rfl
@[simp] theorem State.addCycles_y (n : Nat) : (s.addCycles n).y = s.y := rfl
@[simp] theorem State.addCycles_sp (n : Nat) : (s.addCycles n).sp = s.sp := rfl
@[simp] theorem State.addCycles_pc (n : Nat) : (s.addCycles n).pc = s.pc := rfl
@[simp] theorem State.addCycles_p (n : Nat) : (s.addCycles n).p = s.p := rfl
@[simp] theorem State.addCycles_cycles (n : Nat) : (s.addCycles n).cycles = s.cycles + n := rfl
@[simp] theorem State.addCycles_pending (n : Nat) : (s.addCycles n).pending = s.pending := rfl
@[simp] theorem State.addCycles_stall (n : Nat) : (s.addCycles n).stall = s.stall := rfl
@[simp] theorem State.addCycles_refused (n : Nat) : (s.addCycles n).refused = s.refused := rfl
@[simp] theorem State.addCycles_stubbed (n : Nat) : (s.addCycles n).stubbed = s.stubbed := rfl
@[simp] theorem State.addCycles_ram (n : Nat) : (s.addCycles n).ram = s.ram := rfl
@[simp] theorem State.addCycles_ppu (n : Nat) : (s.addCycles n).ppu = s.ppu := rfl
@[simp] theorem State.addCycles_pad (n : Nat) : (s.addCycles n).pad = s.pad := rfl
@[simp] theorem State.addCycles_cart (n : Nat) : (s.addCycles n).cart = s.cart := rfl
@[simp] theorem State.addCycles_params (n : Nat) : (s.addCycles n).params = s.params := rfl
@[simp] theorem State.addCycles_irqLine (n : Nat) : (s.addCycles n).irqLine = s.irqLine := rfl
@[simp] theorem State.addCycles_inputs (n : Nat) : (s.addCycles n).inputs = s.inputs := rfl
@[simp] theorem State.addCycles_inputCalls (n : Nat) : (s.addCycles n).inputCalls = s.inputCalls := rfl
@[simp] theorem State.addCycles_runStart (n : Nat) : (s.addCycles n).runStart = s.runStart := rfl

@[simp] theorem State.setNZ_a (v : Byte) : (s.setNZ v).a = s.a := rfl
@[simp] theorem State.setNZ_x (v : Byte) : (s.setNZ v).x = s.x := rfl
@[simp] theorem State.setNZ_y (v : Byte) : (s.setNZ v).y = s.y := rfl
@[simp] theorem State.setNZ_sp (v : Byte) : (s.setNZ v).sp = s.sp := rfl
@[simp] theorem State.setNZ_pc (v : Byte) : (s.setNZ v).pc = s.pc := rfl
@[simp] theorem State.setNZ_p (v : Byte) : (s.setNZ v).p = putNZ s.p v := rfl
@[simp] theorem State.setNZ_cycles (v : Byte) : (s.setNZ v).cycles = s.cycles := rfl
@[simp] theorem State.setNZ_pending (v : Byte) : (s.setNZ v).pending = s.pending := rfl
@[simp] theorem State.setNZ_stall (v : Byte) : (s.setNZ v).stall = s.stall := rfl
@[simp] theorem State.setNZ_refused (v : Byte) : (s.setNZ v).refused = s.refused := rfl
@[simp] theorem State.setNZ_stubbed (v : Byte) : (s.setNZ v).stubbed = s.stubbed := rfl
@[simp] theorem State.setNZ_ram (v : Byte) : (s.setNZ v).ram = s.ram := rfl
@[simp] theorem State.setNZ_ppu (v : Byte) : (s.setNZ v).ppu = s.ppu := rfl
@[simp] theorem State.setNZ_pad (v : Byte) : (s.setNZ v).pad = s.pad := rfl
@[simp] theorem State.setNZ_cart (v : Byte) : (s.setNZ v).cart = s.cart := rfl
@[simp] theorem State.setNZ_params (v : Byte) : (s.setNZ v).params = s.params := rfl
@[simp] theorem State.setNZ_irqLine (v : Byte) : (s.setNZ v).irqLine = s.irqLine := rfl
@[simp] theorem State.setNZ_inputs (v : Byte) : (s.setNZ v).inputs = s.inputs := rfl
@[simp] theorem State.setNZ_inputCalls (v : Byte) : (s.setNZ v).inputCalls = s.inputCalls := rfl
@[simp] theorem State.setNZ_runStart (v : Byte) : (s.setNZ v).runStart = s.runStart := rfl

@[simp] theorem State.advance_a (d : Desc) : (s.advance d).a = s.a := rfl
@[simp] theorem State.advance_x (d : Desc) : (s.advance d).x = s.x := rfl
@[simp] theorem State.advance_y (d : Desc) : (s.advance d).y = s.y := rfl
@[simp] theorem State.advance_sp (d : Desc) : (s.advance d).sp = s.sp := rfl
@[simp] theorem State.advance_pc (d : Desc) : (s.advance d).pc = s.pc + BitVec.ofNat 16 d.length := rfl
@[simp] theorem State.advance_p (d : Desc) : (s.advance d).p = s.p := rfl
@[simp] theorem State.advance_cycles (d : Desc) : (s.advance d).cycles = s.cycles := rfl
@[simp] theorem State.advance_pending (d : Desc) : (s.advance d).pending = s.pending := rfl
@[simp] theorem State.advance_stall (d : Desc) : (s.advance d).stall = s.stall := rfl
@[simp] theorem State.advance_refused (d : Desc) : (s.advance d).refused = s.refused := rfl
@[simp] theorem State.advance_stubbed (d : Desc) : (s.advance d).stubbed = s.stubbed := rfl
@[simp] theorem State.advance_ram (d : Desc) : (s.advance d).ram = s.ram := rfl
@[simp] theorem State.advance_ppu (d : Desc) : (s.advance d).ppu = s.ppu := rfl
@[simp] theorem State.advance_pad (d : Desc) : (s.advance d).pad = s.pad := rfl
@[simp] theorem State.advance_cart (d : Desc) : (s.advance d).cart = s.cart := rfl
@[simp] theorem State.advance_params (d : Desc) : (s.advance d).params = s.params := rfl
@[simp] theorem State.advance_irqLine (d : Desc) : (s.advance d).irqLine = s.irqLine := rfl
@[simp] theorem State.advance_inputs (d : Desc) : (s.advance d).inputs = s.inputs := rfl
@[simp] theorem State.advance_inputCalls (d : Desc) : (s.advance d).inputCalls = s.inputCalls := rfl
@[simp] theorem State.advance_runStart (d : Desc) : (s.advance d).runStart = s.runStart := rfl

@[simp] theorem State.refuse_a : (s.refuse).a = s.a := rfl
@[simp] theorem State.refuse_x : (s.refuse).x = s.x := rfl
@[simp] theorem State.refuse_y : (s.refuse).y = s.y := rfl
@[simp] theorem State.refuse_sp : (s.refuse).sp = s.sp := rfl
@[simp] theorem State.refuse_pc : (s.refuse).pc = s.pc := rfl
@[simp] theorem State.refuse_p : (s.refuse).p = s.p := rfl
@[simp] theorem State.refuse_cycles : (s.refuse).cycles = s.cycles := rfl
@[simp] theorem State.refuse_pending : (s.refuse).pending = s.pending := rfl
@[simp] theorem State.refuse_stall : (s.refuse).stall = s.stall := rfl
@[simp] theorem State.refuse_refused : (s.refuse).refused = true := rfl
@[simp] theorem State.refuse_stubbed : (s.refuse).stubbed = s.stubbed := rfl
@[simp] theorem State.refuse_ram : (s.refuse).ram = s.ram := rfl
@[simp] theorem State.refuse_ppu : (s.refuse).ppu = s.ppu := rfl
@[simp] theorem State.refuse_pad : (s.refuse).pad = s.pad := rfl
@[simp] theorem State.refuse_cart : (s.refuse).cart = s.cart := rfl
@[simp] theorem State.refuse_params : (s.refuse).params = s.params := rfl
@[simp] theorem State.refuse_irqLine : (s.refuse).irqLine = s.irqLine := rfl
@[simp] theorem State.refuse_inputs : (s.refuse).inputs = s.inputs := rfl
@[simp] theorem State.refuse_inputCalls : (s.refuse).inputCalls = s.inputCalls := rfl
@[simp] theorem State.refuse_runStart : (s.refuse).runStart = s.runStart := rfl

@[simp] theorem State.markStubbed_a : (s.markStubbed).a = s.a := rfl
@[simp] theorem State.markStubbed_x : (s.markStubbed).x = s.x := rfl
@[simp] theorem State.markStubbed_y : (s.markStubbed).y = s.y := rfl
@[simp] theorem State.markStubbed_sp : (s.markStubbed).sp = s.sp := rfl
@[simp] theorem State.markStubbed_pc : (s.markStubbed).pc = s.pc := rfl
@[simp] theorem State.markStubbed_p : (s.markStubbed).p = s.p := rfl
@[simp] theorem State.markStubbed_cycles : (s.markStubbed).cycles = s.cycles := rfl
@[simp] theorem State.markStubbed_pending : (s.markStubbed).pending = s.pending := rfl
@[simp] theorem State.markStubbed_stall : (s.markStubbed).stall = s.stall := rfl
@[simp] theorem State.markStubbed_refused : (s.markStubbed).refused = s.refused := rfl
@[simp] theorem State.markStubbed_stubbed : (s.markStubbed).stubbed = true := rfl
@[simp] theorem State.markStubbed_ram : (s.markStubbed).ram = s.ram := rfl
@[simp] theorem State.markStubbed_ppu : (s.markStubbed).ppu = s.ppu := rfl
@[simp] theorem State.markStubbed_pad : (s.markStubbed).pad = s.pad := rfl
@[simp] theorem State.markStubbed_cart : (s.markStubbed).cart = s.cart := rfl
@[simp] theorem State.markStubbed_params : (s.markStubbed).params = s.params := rfl
@[simp] theorem State.markStubbed_irqLine : (s.markStubbed).irqLine = s.irqLine := rfl
@[simp] theorem State.markStubbed_inputs : (s.markStubbed).inputs = s.inputs := rfl
@[simp] theorem State.markStubbed_inputCalls : (s.markStubbed).inputCalls = s.inputCalls := rfl
@[simp] theorem State.markStubbed_runStart : (s.markStubbed).runStart = s.runStart := rfl

/-! ### The catch-up touches the PPU and the pending tag only -/

@[simp] theorem State.catchUp_a : s.catchUp.a = s.a := rfl
@[simp] theorem State.catchUp_x : s.catchUp.x = s.x := rfl
@[simp] theorem State.catchUp_y : s.catchUp.y = s.y := rfl
@[simp] theorem State.catchUp_sp : s.catchUp.sp = s.sp := rfl
@[simp] theorem State.catchUp_pc : s.catchUp.pc = s.pc := rfl
@[simp] theorem State.catchUp_p : s.catchUp.p = s.p := rfl
@[simp] theorem State.catchUp_cycles : s.catchUp.cycles = s.cycles := rfl
@[simp] theorem State.catchUp_stall : s.catchUp.stall = s.stall := rfl
@[simp] theorem State.catchUp_refused : s.catchUp.refused = s.refused := rfl
@[simp] theorem State.catchUp_stubbed : s.catchUp.stubbed = s.stubbed := rfl
@[simp] theorem State.catchUp_ram : s.catchUp.ram = s.ram := rfl
@[simp] theorem State.catchUp_pad : s.catchUp.pad = s.pad := rfl
@[simp] theorem State.catchUp_cart : s.catchUp.cart = s.cart := rfl
@[simp] theorem State.catchUp_params : s.catchUp.params = s.params := rfl
@[simp] theorem State.catchUp_irqLine : s.catchUp.irqLine = s.irqLine := rfl
@[simp] theorem State.catchUp_inputs : s.catchUp.inputs = s.inputs := rfl
@[simp] theorem State.catchUp_inputCalls : s.catchUp.inputCalls = s.inputCalls := rfl
@[simp] theorem State.catchUp_runStart : s.catchUp.runStart = s.runStart := rfl
@[simp] theorem State.catchUp_pending : s.catchUp.pending = s.replayed.2 := rfl
@[simp] theorem State.catchUp_lastSynced : s.catchUp.ppu.lastSynced = s.cycles := rfl

/-! ### The stall block (40_engine R171) -/

@[simp] theorem State.stallBlock_a : s.stallBlock.a = s.a := rfl
@[simp] theorem State.stallBlock_x : s.stallBlock.x = s.x := rfl
@[simp] theorem State.stallBlock_y : s.stallBlock.y = s.y := rfl
@[simp] theorem State.stallBlock_sp : s.stallBlock.sp = s.sp := rfl
@[simp] theorem State.stallBlock_pc : s.stallBlock.pc = s.pc := rfl
@[simp] theorem State.stallBlock_p : s.stallBlock.p = s.p := rfl
@[simp] theorem State.stallBlock_cycles : s.stallBlock.cycles = s.cycles + s.stall := rfl
@[simp] theorem State.stallBlock_pending : s.stallBlock.pending = s.pending := rfl
@[simp] theorem State.stallBlock_stall : s.stallBlock.stall = 0 := rfl
@[simp] theorem State.stallBlock_refused : s.stallBlock.refused = s.refused := rfl
@[simp] theorem State.stallBlock_stubbed : s.stallBlock.stubbed = s.stubbed := rfl
@[simp] theorem State.stallBlock_ram : s.stallBlock.ram = s.ram := rfl
@[simp] theorem State.stallBlock_ppu : s.stallBlock.ppu = s.ppu := rfl
@[simp] theorem State.stallBlock_pad : s.stallBlock.pad = s.pad := rfl
@[simp] theorem State.stallBlock_cart : s.stallBlock.cart = s.cart := rfl
@[simp] theorem State.stallBlock_params : s.stallBlock.params = s.params := rfl
@[simp] theorem State.stallBlock_irqLine : s.stallBlock.irqLine = s.irqLine := rfl
@[simp] theorem State.stallBlock_inputs : s.stallBlock.inputs = s.inputs := rfl
@[simp] theorem State.stallBlock_inputCalls : s.stallBlock.inputCalls = s.inputCalls := rfl
@[simp] theorem State.stallBlock_runStart : s.stallBlock.runStart = s.runStart := rfl

end Sys2Proof.Machine
end

