-- ==== Sys2Proof/Laws/Bus.lean ====
section
/-! SUPPORT. What one CPU bus access can do: a read changes no CPU register, no memory byte and nothing but the
picture processor, the pending tag and the controller latch; a write changes no CPU register. Both depend on
no CPU register but the cycle counter, and both keep the machine's invariant. -/

namespace Sys2Proof.Machine

variable (s : State) (addr : Word) (v : Byte)

/-- Equality through the two sides' fields. -/
theorem prod_state_ext {r q : Byte × State} (h : r.1 = q.1) (k : r.2 = q.2) : r = q := Prod.ext h k

/-! ### Reads -/

/-- What a read can change. -/
theorem State.read_shape : (s.read addr).2 =
    { s with ppu := (s.read addr).2.ppu, pending := (s.read addr).2.pending, pad := (s.read addr).2.pad } := by
  unfold State.read
  split
  · rfl
  split
  · rfl
  split
  · rfl
  split
  · rfl
  split <;> rfl

@[simp] theorem State.read_a : (s.read addr).2.a = s.a := by rw [State.read_shape]
@[simp] theorem State.read_x : (s.read addr).2.x = s.x := by rw [State.read_shape]
@[simp] theorem State.read_y : (s.read addr).2.y = s.y := by rw [State.read_shape]
@[simp] theorem State.read_sp : (s.read addr).2.sp = s.sp := by rw [State.read_shape]
@[simp] theorem State.read_pc : (s.read addr).2.pc = s.pc := by rw [State.read_shape]
@[simp] theorem State.read_p : (s.read addr).2.p = s.p := by rw [State.read_shape]
@[simp] theorem State.read_cycles : (s.read addr).2.cycles = s.cycles := by rw [State.read_shape]
@[simp] theorem State.read_stall : (s.read addr).2.stall = s.stall := by rw [State.read_shape]
@[simp] theorem State.read_refused : (s.read addr).2.refused = s.refused := by rw [State.read_shape]
@[simp] theorem State.read_stubbed : (s.read addr).2.stubbed = s.stubbed := by rw [State.read_shape]
@[simp] theorem State.read_ram : (s.read addr).2.ram = s.ram := by rw [State.read_shape]
@[simp] theorem State.read_cart : (s.read addr).2.cart = s.cart := by rw [State.read_shape]
@[simp] theorem State.read_params : (s.read addr).2.params = s.params := by rw [State.read_shape]
@[simp] theorem State.read_irqLine : (s.read addr).2.irqLine = s.irqLine := by rw [State.read_shape]
@[simp] theorem State.read_inputs : (s.read addr).2.inputs = s.inputs := by rw [State.read_shape]
@[simp] theorem State.read_inputCalls : (s.read addr).2.inputCalls = s.inputCalls := by rw [State.read_shape]
@[simp] theorem State.read_runStart : (s.read addr).2.runStart = s.runStart := by rw [State.read_shape]

/-- A read of an address outside the device windows gives the memory's byte and changes nothing. -/
theorem State.read_mem (h : addr.toNat < 0x2000 ∨ 0x6000 ≤ addr.toNat) :
    s.read addr = (s.memByte addr, s) := by
  unfold State.read State.memByte
  rcases h with h | h
  · rw [if_pos h, if_pos h]
  · have h0 : ¬ addr.toNat < 0x2000 := by omega
    have h1 : ¬ addr.toNat < 0x4000 := by omega
    have h2 : addr ≠ 0x4016 := by rintro rfl; simp at h
    have h3 : addr ≠ 0x4017 := by rintro rfl; simp at h
    rw [if_neg h0, if_neg h1, if_neg h2, if_neg h3, if_pos h, if_neg h0, if_pos h]

/-- A RAM read (20_memory R81). -/
theorem State.read_ram_cell (h : addr.toNat < 0x2000) : s.read addr = (s.ram.read (addr.toNat % 2048), s) := by
  rw [State.read_mem _ _ (.inl h), State.memByte, if_pos h]
  simp [ramIndex, BitVec.toNat_and, Nat.and_two_pow_sub_one_eq_mod _ 11]

/-- A cartridge read (20_memory R85). -/
theorem State.read_cart_cell (h : 0x6000 ≤ addr.toNat) : s.read addr = (cartReadPrg s.cart addr, s) := by
  have h0 : ¬ addr.toNat < 0x2000 := by omega
  rw [State.read_mem _ _ (.inr h), State.memByte, if_neg h0, if_pos h]

theorem ramIndex_eq : ramIndex addr = addr.toNat % 2048 := by
  simp [ramIndex, BitVec.toNat_and, Nat.and_two_pow_sub_one_eq_mod _ 11]

theorem ramIndex_lt : ramIndex addr < 2048 := by
  rw [ramIndex_eq]
  omega

/-- A read does not depend on PC. -/
theorem State.read_setPC (w : Word) :
    (s.setPC w).read addr = ((s.read addr).1, (s.read addr).2.setPC w) := by
  unfold State.read
  split
  · rfl
  split
  · rfl
  split
  · rfl
  split
  · rfl
  split <;> rfl

/-- A read does not depend on SP. -/
theorem State.read_setSP (w : Byte) :
    (s.setSP w).read addr = ((s.read addr).1, (s.read addr).2.setSP w) := by
  unfold State.read
  split
  · rfl
  split
  · rfl
  split
  · rfl
  split
  · rfl
  split <;> rfl

/-- A read changes no byte of memory. -/
@[simp] theorem State.memByte_read (b : Word) : (s.read addr).2.memByte b = s.memByte b := by
  unfold State.memByte
  rw [State.read_ram, State.read_cart]

/-! ### Writes -/

/-- What a DMA copy can change. -/
theorem State.dmaCopy_shape (n : Nat) : ∀ (addr : Word) (s : State), State.dmaCopy n addr s =
    { s with
      ppu := (State.dmaCopy n addr s).ppu
      pending := (State.dmaCopy n addr s).pending
      pad := (State.dmaCopy n addr s).pad } := by
  induction n with
  | zero => exact fun _ _ => rfl
  | succ n ih =>
    intro addr s
    have h := ih (addr + 1) { (s.read addr).2 with ppu := (s.read addr).2.ppu.writeOam (s.read addr).1 }
    rw [State.dmaCopy]
    generalize State.dmaCopy n (addr + 1)
      { (s.read addr).2 with ppu := (s.read addr).2.ppu.writeOam (s.read addr).1 } = d at h ⊢
    refine h.trans ?_
    rw [State.read_shape]

theorem State.dmaCopy_setPC (w : Word) (n : Nat) : ∀ (addr : Word) (s : State),
    State.dmaCopy n addr (s.setPC w) = (State.dmaCopy n addr s).setPC w := by
  induction n with
  | zero => exact fun _ _ => rfl
  | succ n ih =>
    intro addr s
    rw [State.dmaCopy, State.dmaCopy, State.read_setPC]
    exact ih (addr + 1) { (s.read addr).2 with ppu := (s.read addr).2.ppu.writeOam (s.read addr).1 }

theorem State.oamDma_setPC (w : Word) : (s.setPC w).oamDma v = (s.oamDma v).setPC w := by
  unfold State.oamDma
  rw [State.dmaCopy_setPC]
  generalize State.dmaCopy 256 (mkWord v 0) s = t
  rfl

theorem State.strobeWrite_setPC (w : Word) : (s.setPC w).strobeWrite v = (s.strobeWrite v).setPC w := by
  unfold State.strobeWrite
  rw [State.setPC_pad]
  split
  · rfl
  split <;> rfl

/-- What a write can change. -/
theorem State.write_shape : s.write addr v =
    { s with
      ram := (s.write addr v).ram
      ppu := (s.write addr v).ppu
      pending := (s.write addr v).pending
      pad := (s.write addr v).pad
      cart := (s.write addr v).cart
      stall := (s.write addr v).stall
      inputs := (s.write addr v).inputs
      inputCalls := (s.write addr v).inputCalls } := by
  unfold State.write
  split
  · rfl
  split
  · rfl
  split
  · unfold State.oamDma
    rw [State.dmaCopy_shape]
  split
  · unfold State.strobeWrite
    split
    · rfl
    split <;> rfl
  split <;> rfl

@[simp] theorem State.write_a : (s.write addr v).a = s.a := by rw [State.write_shape]
@[simp] theorem State.write_x : (s.write addr v).x = s.x := by rw [State.write_shape]
@[simp] theorem State.write_y : (s.write addr v).y = s.y := by rw [State.write_shape]
@[simp] theorem State.write_sp : (s.write addr v).sp = s.sp := by rw [State.write_shape]
@[simp] theorem State.write_pc : (s.write addr v).pc = s.pc := by rw [State.write_shape]
@[simp] theorem State.write_p : (s.write addr v).p = s.p := by rw [State.write_shape]
@[simp] theorem State.write_cycles : (s.write addr v).cycles = s.cycles := by rw [State.write_shape]
@[simp] theorem State.write_refused : (s.write addr v).refused = s.refused := by rw [State.write_shape]
@[simp] theorem State.write_stubbed : (s.write addr v).stubbed = s.stubbed := by rw [State.write_shape]
@[simp] theorem State.write_params : (s.write addr v).params = s.params := by rw [State.write_shape]
@[simp] theorem State.write_irqLine : (s.write addr v).irqLine = s.irqLine := by rw [State.write_shape]
@[simp] theorem State.write_runStart : (s.write addr v).runStart = s.runStart := by rw [State.write_shape]

/-- A write does not depend on PC. -/
theorem State.write_setPC (w : Word) : (s.setPC w).write addr v = (s.write addr v).setPC w := by
  unfold State.write
  rw [State.oamDma_setPC, State.strobeWrite_setPC]
  split
  · rfl
  split
  · rfl
  split
  · rfl
  split
  · rfl
  split <;> rfl

/-- A RAM write (20_memory R81). -/
theorem State.write_ram_cell (h : addr.toNat < 0x2000) :
    s.write addr v = { s with ram := s.ram.write (addr.toNat % 2048) v } := by
  unfold State.write
  rw [if_pos h, ramIndex_eq]

/-- A write to PRG space changes nothing (52_cartridge R410). -/
theorem State.write_cart (h : 0x6000 ≤ addr.toNat) : s.write addr v = s := by
  have h0 : ¬ addr.toNat < 0x2000 := by omega
  have h1 : ¬ addr.toNat < 0x4000 := by omega
  have h2 : addr ≠ 0x4014 := by rintro rfl; simp at h
  have h3 : addr ≠ 0x4016 := by rintro rfl; simp at h
  unfold State.write
  rw [if_neg h0, if_neg h1, if_neg h2, if_neg h3, if_pos h]
  cases s with
  | mk => simp [cartWritePrg, Cartridge.writePrg]

/-- A write to an unmapped address changes nothing (20_memory R84). -/
theorem State.write_unmapped (h : 0x4000 ≤ addr.toNat ∧ addr.toNat < 0x6000)
    (h14 : addr ≠ 0x4014) (h16 : addr ≠ 0x4016) : s.write addr v = s := by
  have h0 : ¬ addr.toNat < 0x2000 := by omega
  have h1 : ¬ addr.toNat < 0x4000 := by omega
  have h2 : ¬ 0x6000 ≤ addr.toNat := by omega
  unfold State.write
  rw [if_neg h0, if_neg h1, if_neg h14, if_neg h16, if_neg h2]

/-- The RAM after a write anywhere. -/
theorem State.write_ram : (s.write addr v).ram =
    if addr.toNat < 0x2000 then s.ram.write (ramIndex addr) v else s.ram := by
  unfold State.write
  split
  · rfl
  split
  · rfl
  split
  · unfold State.oamDma
    rw [State.dmaCopy_shape]
  split
  · unfold State.strobeWrite
    split
    · rfl
    split <;> rfl
  split <;> rfl

/-- No write changes PRG: a write to the PPU data port alone reaches the cartridge, and only its CHR. -/
theorem State.write_prg : cartReadPrg (s.write addr v).cart = cartReadPrg s.cart := by
  by_cases hc : 0x6000 ≤ addr.toNat
  · rw [State.write_cart _ _ _ hc]
  unfold State.write
  split
  · rfl
  split
  · show cartReadPrg (Ppu.writeReg _ _ _ _ _).2 = _
    rw [writeReg_cart]
    split
    · unfold Ppu.busWrite
      split
      · funext a
        cases h : s.cart with
        | none => rw [State.catchUp_cart, h]; rfl
        | some c =>
          rw [State.catchUp_cart, h]
          show Cartridge.readPrg (Cartridge.writeChr _ _ _) a = Cartridge.readPrg c a
          simp only [Cartridge.readPrg, Cartridge.writeChr_prg, Cartridge.writeChr_prgMask]
      split <;> rfl
    · rfl
  split
  · unfold State.oamDma
    rw [State.dmaCopy_shape]
  split
  · unfold State.strobeWrite
    split
    · rfl
    split <;> rfl
  rfl

/-- Memory after a write: only the RAM cell of its address can differ. -/
theorem State.memByte_write (b : Word) : (s.write addr v).memByte b =
    if addr.toNat < 0x2000 ∧ b.toNat < 0x2000 ∧ ramIndex b = ramIndex addr then v else s.memByte b := by
  unfold State.memByte
  rw [State.write_ram, State.write_prg]
  by_cases hb : b.toNat < 0x2000
  · rw [if_pos hb, if_pos hb]
    by_cases ha : addr.toNat < 0x2000
    · rw [if_pos ha, Mem.read_write]
      simp [ha, hb]
    · simp [ha]
  · simp [hb]

end Sys2Proof.Machine
end

