-- ==== Sys2Proof/Laws/Exec.lean ====
section
/-! SUPPORT. What one instruction, and one iteration of the engine, can do: everything an instruction does is bus
accesses and register writes, then at least two cycles; or it is refused. A property that these keep is kept
by every iteration. -/

namespace Sys2Proof.Machine

/-- A property that bus accesses and register writes keep. -/
structure BusClosed (P : State → Prop) : Prop where
  read : ∀ s addr, P s → P (s.read addr).2
  write : ∀ s addr v, P s → P (s.write addr v)
  setA : ∀ s v, P s → P (s.setA v)
  setX : ∀ s v, P s → P (s.setX v)
  setY : ∀ s v, P s → P (s.setY v)
  setSP : ∀ s v, P s → P (s.setSP v)
  setPC : ∀ s w, P s → P (s.setPC w)
  setP : ∀ s v, P s → P (s.setP v)

/-- A property that everything an iteration of the engine does keeps. -/
structure StepClosed (P : State → Prop) : Prop extends BusClosed P where
  addCycles : ∀ s n, P s → P (s.addCycles n)
  refuse : ∀ s, P s → P s.refuse
  markStubbed : ∀ s, P s → P s.markStubbed
  boundary : ∀ (s : State) (stall : Nat) (line : List Bool) (tag : Pending), P s →
    P { s with stall := stall, irqLine := line, pending := tag }

/-- Every opcode takes at least two cycles (40_engine R173). -/
theorem two_le_baseCycles (op : Byte) : 2 ≤ (desc op).baseCycles := by
  revert op
  decide +kernel

/-- A state an instruction can end in: one reached by bus accesses and register writes, with at least two cycles
added. -/
def Timed (P : State → Prop) (t : State) : Prop := ∃ u n, P u ∧ 2 ≤ n ∧ t = u.addCycles n

variable {P : State → Prop} {s : State}

/-! ### The shared operations -/

namespace BusClosed

variable (hP : BusClosed P)
include hP

theorem setNZ (h : P s) (v : Byte) : P (s.setNZ v) := hP.setP _ _ h
theorem advance (h : P s) (d : Desc) : P (s.advance d) := hP.setPC _ _ h
theorem readPair (h : P s) (lo hi : Word) : P (s.readPair lo hi).2 := hP.read _ _ (hP.read _ _ h)
theorem push (h : P s) (v : Byte) : P (s.push v) := hP.setSP _ _ (hP.write _ _ _ h)
theorem pull (h : P s) : P s.pull.2 := hP.read _ _ (hP.setSP _ _ h)
theorem pushWord (h : P s) (w : Word) : P (s.pushWord w) := hP.push (hP.push h _) _
theorem pullWord (h : P s) : P s.pullWord.2 := hP.pull (hP.pull h)

theorem takeTrap (h : P s) (vector : Word) : P (s.takeTrap vector) :=
  hP.setPC _ _ (hP.readPair (hP.setP _ _ (hP.push (hP.pushWord h _) _)) _ _)

theorem returnFromTrap (h : P s) : P s.returnFromTrap :=
  hP.setPC _ _ (hP.pullWord (hP.setP _ _ (hP.pull h)))

theorem resolve (h : P s) (f : AddrForm) : P (f.resolve s).2 := by
  cases f with
  | izx z => exact hP.readPair h _ _
  | izy z => exact hP.readPair h _ _
  | _ => exact h

theorem load (h : P s) (o : Source) : P (o.load s).state := by
  cases o with
  | imm i => exact h
  | mem f => exact hP.read _ _ (hP.resolve h f)

theorem jmpTarget (h : P s) (m : JmpMode) : P (m.target s).2 := by
  cases m with
  | abs w => exact h
  | ind w => exact hP.readPair h _ _

theorem fetch (h : P s) : P s.fetch.2 := by
  unfold State.fetch
  simp only
  split
  · exact hP.read _ _ h
  · exact hP.read _ _ (hP.read _ _ h)
  · exact hP.read _ _ (hP.read _ _ (hP.read _ _ h))

/-! ### The shapes of access -/

variable {d : Desc} (hd : 2 ≤ d.baseCycles)
include hd

theorem readOp (h : P s) (o : Source) {f : Byte → State → State} (hf : ∀ v t, P t → P (f v t)) :
    Timed P (Machine.readOp d o f s) :=
  ⟨_, _, hf _ _ (hP.load (hP.advance h d) o), Nat.le_trans hd (Nat.le_add_right _ _), rfl⟩

theorem storeOp (h : P s) (a : AddrForm) (v : State → Byte) : Timed P (Machine.storeOp d a v s) :=
  ⟨_, _, hP.write _ _ _ (hP.resolve (hP.advance h d) a), Nat.le_trans hd (Nat.le_add_right _ _), rfl⟩

theorem rmwOp (h : P s) (t : Target) (f : Byte → Byte → Byte × Byte) : Timed P (Machine.rmwOp d t f s) := by
  cases t with
  | acc => exact ⟨_, _, hP.setP _ _ (hP.setA _ _ (hP.advance h d)), hd, rfl⟩
  | mem a =>
    have hr := hP.resolve (hP.advance h d) a
    have hu : P ((a.resolve (s.advance d)).2.dummyRead d (a.resolve (s.advance d)).1) := by
      unfold State.dummyRead
      split
      · exact hP.read _ _ hr
      · exact hr
    exact ⟨_, _, hP.setP _ _ (hP.write _ _ _ (hP.read _ _ hu)), Nat.le_trans hd (Nat.le_add_right _ _), rfl⟩

theorem impliedOp (h : P s) {f : State → State} (hf : ∀ t, P t → P (f t)) :
    Timed P (Machine.impliedOp d f s) :=
  ⟨_, _, hf _ (hP.advance h d), Nat.le_trans hd (Nat.le_add_right _ _), rfl⟩

theorem branchOp (h : P s) (taken : Bool) (o : Byte) : Timed P (Machine.branchOp d taken o s) := by
  refine ⟨_, _, ?_, Nat.le_trans hd (Nat.le_add_right _ _), rfl⟩
  show P (if taken then _ else _)
  split
  · exact hP.setPC _ _ (hP.advance h d)
  · exact hP.advance h d

end BusClosed

/-- What an instruction can do: refuse, or end in a timed state, as a stub or not. -/
inductive Ends (P : State → Prop) (s : State) : State → Prop where
  | refuse : Ends P s s.refuse
  | timed {t : State} (h : Timed P t) : Ends P s t
  | stub {t : State} (h : Timed P t) : Ends P s t.markStubbed

theorem undocumentedOp_ends (hP : BusClosed P) (h : P s) (op : Byte) : Ends P s (undocumentedOp (desc op) s) := by
  unfold undocumentedOp
  split
  · exact .refuse
  · exact .stub ⟨_, _, hP.advance h _, two_le_baseCycles op, rfl⟩

/-- Every instruction answers a next state, which is one of these. -/
theorem exec_ends (hP : BusClosed P) (i : Instr) (h : P s) : ∃ t, exec i s = .next t ∧ Ends P s t := by
  have two : ∀ i : Instr, 2 ≤ i.desc.baseCycles := fun i => two_le_baseCycles i.opcode
  cases i with
  | lda m => exact ⟨_, rfl, .timed (hP.readOp (two _) h _ fun _ _ k => hP.setNZ (hP.setA _ _ k) _)⟩
  | ldx m => exact ⟨_, rfl, .timed (hP.readOp (two _) h _ fun _ _ k => hP.setNZ (hP.setX _ _ k) _)⟩
  | ldy m => exact ⟨_, rfl, .timed (hP.readOp (two _) h _ fun _ _ k => hP.setNZ (hP.setY _ _ k) _)⟩
  | sta m => exact ⟨_, rfl, .timed (hP.storeOp (two _) h _ _)⟩
  | stx m => exact ⟨_, rfl, .timed (hP.storeOp (two _) h _ _)⟩
  | sty m => exact ⟨_, rfl, .timed (hP.storeOp (two _) h _ _)⟩
  | tax => exact ⟨_, rfl, .timed (hP.impliedOp (two _) h fun _ k => hP.setNZ (hP.setX _ _ k) _)⟩
  | tay => exact ⟨_, rfl, .timed (hP.impliedOp (two _) h fun _ k => hP.setNZ (hP.setY _ _ k) _)⟩
  | tsx => exact ⟨_, rfl, .timed (hP.impliedOp (two _) h fun _ k => hP.setNZ (hP.setX _ _ k) _)⟩
  | txa => exact ⟨_, rfl, .timed (hP.impliedOp (two _) h fun _ k => hP.setNZ (hP.setA _ _ k) _)⟩
  | txs => exact ⟨_, rfl, .timed (hP.impliedOp (two _) h fun _ k => hP.setSP _ _ k)⟩
  | tya => exact ⟨_, rfl, .timed (hP.impliedOp (two _) h fun _ k => hP.setNZ (hP.setA _ _ k) _)⟩
  | pha => exact ⟨_, rfl, .timed (hP.impliedOp (two _) h fun _ k => hP.push k _)⟩
  | php => exact ⟨_, rfl, .timed (hP.impliedOp (two _) h fun _ k => hP.push k _)⟩
  | pla => exact ⟨_, rfl, .timed (hP.impliedOp (two _) h fun _ k => hP.setNZ (hP.setA _ _ (hP.pull k)) _)⟩
  | plp => exact ⟨_, rfl, .timed (hP.impliedOp (two _) h fun _ k => hP.setP _ _ (hP.pull k))⟩
  | adc m => exact ⟨_, rfl, .timed (hP.readOp (two _) h _ fun _ _ k => hP.setP _ _ (hP.setA _ _ k))⟩
  | sbc m => exact ⟨_, rfl, .timed (hP.readOp (two _) h _ fun _ _ k => hP.setP _ _ (hP.setA _ _ k))⟩
  | and m => exact ⟨_, rfl, .timed (hP.readOp (two _) h _ fun _ _ k => hP.setNZ (hP.setA _ _ k) _)⟩
  | ora m => exact ⟨_, rfl, .timed (hP.readOp (two _) h _ fun _ _ k => hP.setNZ (hP.setA _ _ k) _)⟩
  | eor m => exact ⟨_, rfl, .timed (hP.readOp (two _) h _ fun _ _ k => hP.setNZ (hP.setA _ _ k) _)⟩
  | cmp m => exact ⟨_, rfl, .timed (hP.readOp (two _) h _ fun _ _ k => hP.setP _ _ k)⟩
  | cpx m => exact ⟨_, rfl, .timed (hP.readOp (two _) h _ fun _ _ k => hP.setP _ _ k)⟩
  | cpy m => exact ⟨_, rfl, .timed (hP.readOp (two _) h _ fun _ _ k => hP.setP _ _ k)⟩
  | bit m => exact ⟨_, rfl, .timed (hP.readOp (two _) h _ fun _ _ k => hP.setP _ _ k)⟩
  | inc m => exact ⟨_, rfl, .timed (hP.rmwOp (two _) h _ _)⟩
  | dec m => exact ⟨_, rfl, .timed (hP.rmwOp (two _) h _ _)⟩
  | inx => exact ⟨_, rfl, .timed (hP.impliedOp (two _) h fun _ k => hP.setNZ (hP.setX _ _ k) _)⟩
  | iny => exact ⟨_, rfl, .timed (hP.impliedOp (two _) h fun _ k => hP.setNZ (hP.setY _ _ k) _)⟩
  | dex => exact ⟨_, rfl, .timed (hP.impliedOp (two _) h fun _ k => hP.setNZ (hP.setX _ _ k) _)⟩
  | dey => exact ⟨_, rfl, .timed (hP.impliedOp (two _) h fun _ k => hP.setNZ (hP.setY _ _ k) _)⟩
  | asl m => exact ⟨_, rfl, .timed (hP.rmwOp (two _) h _ _)⟩
  | lsr m => exact ⟨_, rfl, .timed (hP.rmwOp (two _) h _ _)⟩
  | rol m => exact ⟨_, rfl, .timed (hP.rmwOp (two _) h _ _)⟩
  | ror m => exact ⟨_, rfl, .timed (hP.rmwOp (two _) h _ _)⟩
  | jmp m => exact ⟨_, rfl, .timed (hP.impliedOp (two _) h fun _ k => hP.setPC _ _ (hP.jmpTarget k m))⟩
  | jsr w => exact ⟨_, rfl, .timed (hP.impliedOp (two _) h fun _ k => hP.setPC _ _ (hP.pushWord k _))⟩
  | rts => exact ⟨_, rfl, .timed (hP.impliedOp (two _) h fun _ k => hP.setPC _ _ (hP.pullWord k))⟩
  | brk => exact ⟨_, rfl, .timed (hP.impliedOp (two _) h fun _ k => hP.takeTrap k _)⟩
  | rti => exact ⟨_, rfl, .timed (hP.impliedOp (two _) h fun _ k => hP.returnFromTrap k)⟩
  | bcc o => exact ⟨_, rfl, .timed (hP.branchOp (two _) h _ _)⟩
  | bcs o => exact ⟨_, rfl, .timed (hP.branchOp (two _) h _ _)⟩
  | beq o => exact ⟨_, rfl, .timed (hP.branchOp (two _) h _ _)⟩
  | bmi o => exact ⟨_, rfl, .timed (hP.branchOp (two _) h _ _)⟩
  | bne o => exact ⟨_, rfl, .timed (hP.branchOp (two _) h _ _)⟩
  | bpl o => exact ⟨_, rfl, .timed (hP.branchOp (two _) h _ _)⟩
  | bvc o => exact ⟨_, rfl, .timed (hP.branchOp (two _) h _ _)⟩
  | bvs o => exact ⟨_, rfl, .timed (hP.branchOp (two _) h _ _)⟩
  | clc => exact ⟨_, rfl, .timed (hP.impliedOp (two _) h fun _ k => hP.setP _ _ k)⟩
  | cld => exact ⟨_, rfl, .timed (hP.impliedOp (two _) h fun _ k => hP.setP _ _ k)⟩
  | cli => exact ⟨_, rfl, .timed (hP.impliedOp (two _) h fun _ k => hP.setP _ _ k)⟩
  | clv => exact ⟨_, rfl, .timed (hP.impliedOp (two _) h fun _ k => hP.setP _ _ k)⟩
  | sec => exact ⟨_, rfl, .timed (hP.impliedOp (two _) h fun _ k => hP.setP _ _ k)⟩
  | sed => exact ⟨_, rfl, .timed (hP.impliedOp (two _) h fun _ k => hP.setP _ _ k)⟩
  | sei => exact ⟨_, rfl, .timed (hP.impliedOp (two _) h fun _ k => hP.setP _ _ k)⟩
  | nop => exact ⟨_, rfl, .timed (hP.impliedOp (two _) h fun _ k => k)⟩
  | kil op => exact ⟨_, rfl, .refuse⟩
  | _ => exact ⟨_, rfl, undocumentedOp_ends hP h _⟩

/-! ### An iteration of the engine -/

namespace StepClosed

variable (hP : StepClosed P)
include hP

theorem enterInterrupt (h : P s) (vector : Word) : P (s.enterInterrupt vector) :=
  hP.boundary _ _ _ _ (hP.addCycles _ 7 (hP.takeTrap h vector))

theorem beforeFetch (h : P s) : P s.beforeFetch := by
  have h1 : P s.stallBlock := hP.boundary _ 0 _ _ (hP.addCycles _ s.stall h)
  have h2 : P s.stallBlock.sampleIrq := by
    unfold State.sampleIrq
    split
    · exact h1
    · exact hP.boundary _ _ _ _ h1
  unfold State.beforeFetch State.interruptCheck
  split
  · exact hP.enterInterrupt h2 _
  · split
    · exact h2
    · exact hP.enterInterrupt h2 _
  · exact h2

/-- Every iteration that answers a next state keeps the property. -/
theorem engineStep (h : P s) {t : State} (ht : Machine.engineStep s = .next t) : P t := by
  obtain ⟨u, hu, he⟩ := exec_ends hP.toBusClosed s.beforeFetch.fetch.1 (hP.fetch (hP.beforeFetch h))
  have : t = u := by
    unfold Machine.engineStep iteration at ht
    split at ht
    · cases ht
    split at ht
    · cases ht
    · rw [hu] at ht
      cases ht
      rfl
  subst this
  cases he with
  | refuse => exact hP.refuse _ (hP.fetch (hP.beforeFetch h))
  | timed k =>
    obtain ⟨v, n, hv, -, rfl⟩ := k
    exact hP.addCycles _ _ hv
  | stub k =>
    obtain ⟨v, n, hv, -, rfl⟩ := k
    exact hP.markStubbed _ (hP.addCycles _ _ hv)

end StepClosed

end Sys2Proof.Machine
end

