-- ==== Sys2Proof/Laws/Flags.lean ====
section
/-! SUPPORT. The bits of a byte after one is written, each flag after each flag is written, and what every flag
computation leaves of P: bits 4 and 5 (B and U) stay, and only the pulled status forces them. -/

namespace Sys2Proof.Machine

theorem getLsbD_withBit (r : Byte) (i j : Nat) (b : Bool) (hj : j < 8) :
    (withBit r i b).getLsbD j = if j = i then b else r.getLsbD j := by
  unfold withBit
  by_cases h : j = i
  · subst h
    cases b <;> simp [hj]
  · cases b <;> simp [hj, h] <;> omega

theorem getElem_withBit (r : Byte) (i j : Nat) (b : Bool) (hj : j < 8) :
    (withBit r i b)[j] = if j = i then b else r[j] := by
  have := getLsbD_withBit r i j b hj
  rwa [BitVec.getLsbD_eq_getElem hj, BitVec.getLsbD_eq_getElem hj] at this

/-- Two bytes with the same bits are equal. -/
theorem byte_ext (a b : Byte) (h : ∀ j, j < 8 → a.getLsbD j = b.getLsbD j) : a = b :=
  BitVec.eq_of_getLsbD_eq h

/-- The bits of P after `set_nz`. -/
theorem getLsbD_putNZ (p v : Byte) (j : Nat) (hj : j < 8) :
    (putNZ p v).getLsbD j =
      if j = 7 then v.getLsbD 7 else if j = 1 then v == 0 else p.getLsbD j := by
  unfold putNZ putN putZ
  rw [getLsbD_withBit _ _ _ _ hj, getLsbD_withBit _ _ _ _ hj]

section

variable (p v : Byte) (b : Bool)

@[simp] theorem flagC_putC : flagC (putC p b) = b := by simp [flagC, putC, getElem_withBit]
@[simp] theorem flagC_putZ : flagC (putZ p b) = flagC p := by simp [flagC, putZ, getElem_withBit]
@[simp] theorem flagC_putV : flagC (putV p b) = flagC p := by simp [flagC, putV, getElem_withBit]
@[simp] theorem flagC_putN : flagC (putN p b) = flagC p := by simp [flagC, putN, getElem_withBit]
@[simp] theorem flagC_putNZ : flagC (putNZ p v) = flagC p := by simp [putNZ]
@[simp] theorem flagZ_putZ : flagZ (putZ p b) = b := by simp [flagZ, putZ, getElem_withBit]
@[simp] theorem flagZ_putN : flagZ (putN p b) = flagZ p := by simp [flagZ, putN, getElem_withBit]
@[simp] theorem flagZ_putNZ : flagZ (putNZ p v) = (v == 0) := by simp [putNZ]
@[simp] theorem flagV_putV : flagV (putV p b) = b := by simp [flagV, putV, getElem_withBit]
@[simp] theorem flagV_putC : flagV (putC p b) = flagV p := by simp [flagV, putC, getElem_withBit]
@[simp] theorem flagV_putZ : flagV (putZ p b) = flagV p := by simp [flagV, putZ, getElem_withBit]
@[simp] theorem flagV_putN : flagV (putN p b) = flagV p := by simp [flagV, putN, getElem_withBit]
@[simp] theorem flagV_putNZ : flagV (putNZ p v) = flagV p := by simp [putNZ]
@[simp] theorem flagN_putN : flagN (putN p b) = b := by simp [flagN, putN, getElem_withBit]
@[simp] theorem flagN_putNZ : flagN (putNZ p v) = v.getLsbD 7 := by simp [putNZ]

/-! ### U and B (10_state R34, R35) -/

@[simp] theorem flagU_putC : flagU (putC p b) = flagU p := by simp [flagU, putC, getElem_withBit]
@[simp] theorem flagU_putZ : flagU (putZ p b) = flagU p := by simp [flagU, putZ, getElem_withBit]
@[simp] theorem flagU_putI : flagU (putI p b) = flagU p := by simp [flagU, putI, getElem_withBit]
@[simp] theorem flagU_putD : flagU (putD p b) = flagU p := by simp [flagU, putD, getElem_withBit]
@[simp] theorem flagU_putV : flagU (putV p b) = flagU p := by simp [flagU, putV, getElem_withBit]
@[simp] theorem flagU_putN : flagU (putN p b) = flagU p := by simp [flagU, putN, getElem_withBit]
@[simp] theorem flagU_putNZ : flagU (putNZ p v) = flagU p := by simp [putNZ]
@[simp] theorem flagB_putC : flagB (putC p b) = flagB p := by simp [flagB, putC, getElem_withBit]
@[simp] theorem flagB_putZ : flagB (putZ p b) = flagB p := by simp [flagB, putZ, getElem_withBit]
@[simp] theorem flagB_putI : flagB (putI p b) = flagB p := by simp [flagB, putI, getElem_withBit]
@[simp] theorem flagB_putD : flagB (putD p b) = flagB p := by simp [flagB, putD, getElem_withBit]
@[simp] theorem flagB_putV : flagB (putV p b) = flagB p := by simp [flagB, putV, getElem_withBit]
@[simp] theorem flagB_putN : flagB (putN p b) = flagB p := by simp [flagB, putN, getElem_withBit]
@[simp] theorem flagB_putNZ : flagB (putNZ p v) = flagB p := by simp [putNZ]

end

@[simp] theorem flagU_pulledStatus (t : Byte) : flagU (pulledStatus t) = true := by
  simp [flagU, pulledStatus]

@[simp] theorem flagB_pulledStatus (t : Byte) : flagB (pulledStatus t) = false := by
  simp [flagB, pulledStatus]

/-- A function of the operands and P that keeps U and B of P in its second component. -/
def KeepsUB (f : Byte → Byte → Byte × Byte) : Prop :=
  ∀ m p, flagU (f m p).2 = flagU p ∧ flagB (f m p).2 = flagB p

theorem addCarry_keepsUB (a : Byte) : KeepsUB (addCarry a) := by intro m p; simp [addCarry]
theorem subBorrow_keepsUB (a : Byte) : KeepsUB (subBorrow a) := by intro m p; simp [subBorrow]
theorem shiftLeft_keepsUB : KeepsUB shiftLeft := by intro m p; simp [shiftLeft]
theorem shiftRight_keepsUB : KeepsUB shiftRight := by intro m p; simp [shiftRight]
theorem rotateLeft_keepsUB : KeepsUB rotateLeft := by intro m p; simp [rotateLeft]
theorem rotateRight_keepsUB : KeepsUB rotateRight := by intro m p; simp [rotateRight]
theorem increment_keepsUB : KeepsUB increment := by intro m p; simp [increment]
theorem decrement_keepsUB : KeepsUB decrement := by intro m p; simp [decrement]

@[simp] theorem flagU_compareFlags (r m p : Byte) : flagU (compareFlags r m p) = flagU p := by
  simp [compareFlags]

@[simp] theorem flagB_compareFlags (r m p : Byte) : flagB (compareFlags r m p) = flagB p := by
  simp [compareFlags]

@[simp] theorem flagU_bitFlags (a m p : Byte) : flagU (bitFlags a m p) = flagU p := by simp [bitFlags]
@[simp] theorem flagB_bitFlags (a m p : Byte) : flagB (bitFlags a m p) = flagB p := by simp [bitFlags]

end Sys2Proof.Machine
end

