-- ==== Sys2Proof/Laws/Inv.lean ====
section
/-! SUPPORT. The machine's invariant through every shared operation: bus accesses, the stack, traps, and each shape
of access an instruction makes. -/

namespace Sys2Proof.Machine

/-- The picture processor right after reset. -/
theorem Ppu.reset_inv (params : Params) : Ppu.reset.Inv params where
  dot := by decide
  scanline := by decide
  sprCount := by decide
  slots := by
    intro s hs
    have : s ∈ List.replicate 8 SpriteSlot.empty := by simpa [Ppu.reset] using hs
    rw [List.eq_of_mem_replicate this]
    decide
  oam := Mem.good_nil _
  ciram := Mem.good_nil _
  palette := Mem.good_nil _
  frame := Mem.good_nil _
  aliases := by intro c hc; exact absurd hc List.not_mem_nil
  pixels := by intro c hc; exact absurd hc List.not_mem_nil
  line := rfl
  delay := Nat.zero_le _

variable {s : State}

/-! ### The catch-up and the bus -/

theorem State.Inv.catchUp (h : s.Inv) : s.catchUp.Inv :=
  { h with
    ppu := by
      have := h.ppu.ticks (cart := s.cart) s.ticksOwed s.ppu s.pending
      exact { this with line := this.line }
    synced := Nat.le_refl _ }

theorem State.Inv.read (h : s.Inv) (addr : Word) : (s.read addr).2.Inv := by
  unfold State.read
  split
  · exact h
  split
  · have hc := h.catchUp
    exact { hc with
      ppu := hc.ppu.readReg _
      synced := by
        show (Ppu.readReg _ _ _ _).2.lastSynced ≤ _
        unfold Ppu.readReg
        split
        · exact Nat.le_refl _
        split
        · exact Nat.le_refl _
        split <;> exact Nat.le_refl _ }
  split
  · exact { h with }
  split
  · exact { h with }
  split <;> exact h

/-- A register write leaves the synchronisation point alone. -/
theorem writeReg_lastSynced (cart : Option Cartridge) (params : Params) (p : Ppu) (r : BitVec 3) (d : Byte) :
    (p.writeReg cart params r d).1.lastSynced = p.lastSynced := by
  unfold Ppu.writeReg Ppu.writeRegEffect
  repeat' split
  all_goals first
    | rfl
    | (unfold Ppu.writeScroll; split <;> rfl)
    | (unfold Ppu.writeAddr; split <;> rfl)
    | (show (Ppu.busWrite _ _ _ _ _).1.lastSynced = _
       unfold Ppu.busWrite
       repeat' split
       all_goals rfl)

theorem State.Inv.dmaCopy (n : Nat) : ∀ (addr : Word) (s : State), s.Inv → (State.dmaCopy n addr s).Inv := by
  induction n with
  | zero => exact fun _ _ h => h
  | succ n ih =>
    intro addr s h
    have hr := h.read addr
    refine ih (addr + 1) _ ?_
    exact { hr with ppu := hr.ppu.writeOam _, synced := hr.synced }

theorem State.Inv.oamDma (h : s.Inv) (d : Byte) : (s.oamDma d).Inv := by
  have hd := State.Inv.dmaCopy 256 (mkWord d 0) s h
  unfold State.oamDma
  generalize State.dmaCopy 256 (mkWord d 0) s = t at hd ⊢
  exact { hd with }

theorem State.Inv.strobeWrite (h : s.Inv) (d : Byte) : (s.strobeWrite d).Inv := by
  unfold State.strobeWrite
  split
  · exact { h with }
  split
  · exact { h with }
  · exact h

theorem State.Inv.write (h : s.Inv) (addr : Word) (v : Byte) : (s.write addr v).Inv := by
  unfold State.write
  split
  · exact { h with ram := Mem.good_write _ _ _ _ h.ram (ramIndex_lt addr) }
  split
  · have hc := h.catchUp
    exact { hc with
      ppu := hc.ppu.writeReg _ _
      cart := writeReg_cart_inv hc.cart _ _
      synced := by
        show (Ppu.writeReg _ _ _ _ _).1.lastSynced ≤ _
        rw [writeReg_lastSynced]
        exact Nat.le_refl _ }
  split
  · exact h.oamDma v
  split
  · exact h.strobeWrite v
  split
  · exact { h with
      cart := by
        intro c hc
        obtain ⟨c', hc', rfl⟩ := Option.map_eq_some_iff.1 hc
        exact h.cart c' hc' }
  · exact h

/-! ### Registers -/

theorem State.Inv.setA (h : s.Inv) (v : Byte) : (s.setA v).Inv := { h with }
theorem State.Inv.setX (h : s.Inv) (v : Byte) : (s.setX v).Inv := { h with }
theorem State.Inv.setY (h : s.Inv) (v : Byte) : (s.setY v).Inv := { h with }
theorem State.Inv.setSP (h : s.Inv) (v : Byte) : (s.setSP v).Inv := { h with }
theorem State.Inv.setPC (h : s.Inv) (w : Word) : (s.setPC w).Inv := { h with }
theorem State.Inv.advance (h : s.Inv) (d : Desc) : (s.advance d).Inv := { h with }
theorem State.Inv.refuse (h : s.Inv) : s.refuse.Inv := { h with }
theorem State.Inv.markStubbed (h : s.Inv) : s.markStubbed.Inv := { h with }

theorem State.Inv.addCycles (h : s.Inv) (n : Nat) : (s.addCycles n).Inv :=
  { h with synced := Nat.le_trans h.synced (Nat.le_add_right _ _) }

theorem State.Inv.setP (h : s.Inv) (v : Byte) (hu : flagU v = true) (hb : flagB v = false) :
    (s.setP v).Inv :=
  { h with u := hu, b := hb }

theorem State.Inv.setNZ (h : s.Inv) (v : Byte) : (s.setNZ v).Inv :=
  h.setP _ (by rw [flagU_putNZ]; exact h.u) (by rw [flagB_putNZ]; exact h.b)

/-! ### Pointers, the stack, traps -/

theorem State.Inv.readPair (h : s.Inv) (lo hi : Word) : (s.readPair lo hi).2.Inv := (h.read lo).read hi

theorem State.Inv.resolve (h : s.Inv) (f : AddrForm) : (f.resolve s).2.Inv := by
  cases f with
  | izx z => exact h.readPair _ _
  | izy z => exact h.readPair _ _
  | _ => exact h

theorem State.Inv.push (h : s.Inv) (v : Byte) : (s.push v).Inv := (h.write _ _).setSP _

theorem State.Inv.pull (h : s.Inv) : s.pull.2.Inv := (h.setSP _).read _

theorem State.Inv.pushWord (h : s.Inv) (w : Word) : (s.pushWord w).Inv := (h.push _).push _

theorem State.Inv.pullWord (h : s.Inv) : s.pullWord.2.Inv := h.pull.pull

theorem State.push_p (v : Byte) : (s.push v).p = s.p := State.write_p s _ v

theorem State.pushWord_p (w : Word) : (s.pushWord w).p = s.p := (State.push_p _).trans (State.push_p _)

theorem State.Inv.takeTrap (h : s.Inv) (vector : Word) : (s.takeTrap vector).Inv := by
  have hp := (h.pushWord s.pc).push (pushedStatus s.p)
  have hi : (((s.pushWord s.pc).push (pushedStatus s.p)).setP
      (putI ((s.pushWord s.pc).push (pushedStatus s.p)).p true)).Inv :=
    hp.setP _ (by rw [flagU_putI]; exact hp.u) (by rw [flagB_putI]; exact hp.b)
  exact (hi.readPair _ _).setPC _

theorem State.Inv.enterInterrupt (h : s.Inv) (vector : Word) : (s.enterInterrupt vector).Inv :=
  { (h.takeTrap vector).addCycles 7 with }

theorem State.Inv.returnFromTrap (h : s.Inv) : s.returnFromTrap.Inv :=
  ((h.pull.setP _ (flagU_pulledStatus _) (flagB_pulledStatus _)).pullWord).setPC _

/-! ### The shapes of access -/

theorem State.Inv.load (h : s.Inv) (o : Source) : (o.load s).state.Inv := by
  cases o with
  | imm i => exact h
  | mem f => exact (h.resolve f).read _

/-- A read instruction keeps the invariant if its operation does. -/
theorem State.Inv.readOp (h : s.Inv) (d : Desc) (o : Source) {f : Byte → State → State}
    (hf : ∀ v t, t.Inv → (f v t).Inv) : (Sys2Proof.Machine.readOp d o f s).Inv :=
  (hf _ _ ((h.advance d).load o)).addCycles _

theorem State.Inv.storeOp (h : s.Inv) (d : Desc) (a : AddrForm) (v : State → Byte) :
    (Sys2Proof.Machine.storeOp d a v s).Inv :=
  (((h.advance d).resolve a).write _ _).addCycles _

/-- A read-modify-write instruction keeps the invariant if its computation keeps U and B. -/
theorem State.Inv.rmwOp (h : s.Inv) (d : Desc) (t : Target) {f : Byte → Byte → Byte × Byte}
    (hf : KeepsUB f) : (Sys2Proof.Machine.rmwOp d t f s).Inv := by
  cases t with
  | acc =>
    exact (((h.advance d).setA _).setP _ ((hf _ _).1.trans h.u) ((hf _ _).2.trans h.b)).addCycles _
  | mem a =>
    have hd : ∀ (t : State) (e : Effective), t.Inv → (t.dummyRead d e).Inv := by
      intro t e ht
      unfold State.dummyRead
      split
      · exact ht.read _
      · exact ht
    have hl := (hd _ (a.resolve (s.advance d)).1 ((h.advance d).resolve a)).read
      (a.resolve (s.advance d)).1.ea
    refine State.Inv.addCycles (State.Inv.setP (hl.write _ _) _ ?_ ?_) _
    · exact (hf _ _).1.trans hl.u
    · exact (hf _ _).2.trans hl.b

/-- An instruction that names its own operands keeps the invariant if its operation does. -/
theorem State.Inv.impliedOp (h : s.Inv) (d : Desc) {f : State → State} (hf : ∀ t, t.Inv → (f t).Inv) :
    (Sys2Proof.Machine.impliedOp d f s).Inv :=
  (hf _ (h.advance d)).addCycles _

theorem State.Inv.branchOp (h : s.Inv) (d : Desc) (taken : Bool) (o : Byte) :
    (Sys2Proof.Machine.branchOp d taken o s).Inv := by
  unfold Sys2Proof.Machine.branchOp
  split
  · exact ((h.advance d).setPC _).addCycles _
  · exact (h.advance d).addCycles _

theorem State.Inv.undocumentedOp (h : s.Inv) (d : Desc) : (Sys2Proof.Machine.undocumentedOp d s).Inv := by
  unfold Sys2Proof.Machine.undocumentedOp
  split
  · exact h.refuse
  · exact ((h.advance d).addCycles _).markStubbed

/-! ### What an iteration does before and after the instruction -/

theorem State.Inv.stallBlock (h : s.Inv) : s.stallBlock.Inv :=
  { h with synced := Nat.le_trans h.synced (Nat.le_add_right _ _) }

theorem State.Inv.sampleIrq (h : s.Inv) : s.sampleIrq.Inv := by
  unfold State.sampleIrq
  split
  · exact h
  · exact { h with }

theorem State.Inv.interruptCheck (h : s.Inv) : s.interruptCheck.Inv := by
  unfold State.interruptCheck
  split
  · exact h.enterInterrupt _
  · split
    · exact h
    · exact h.enterInterrupt _
  · exact h

theorem State.Inv.beforeFetch (h : s.Inv) : s.beforeFetch.Inv := h.stallBlock.sampleIrq.interruptCheck

theorem State.Inv.fetch (h : s.Inv) : s.fetch.2.Inv := by
  unfold State.fetch
  simp only
  split
  · exact h.read _
  · exact (h.read _).read _
  · exact ((h.read _).read _).read _

theorem State.Inv.openRun (h : s.Inv) : s.openRun.Inv := by
  unfold State.openRun
  split
  · exact h
  · exact { h with ppu := { h.ppu with line := h.ppu.line } }

theorem State.Inv.closeRun (h : s.Inv) : s.closeRun.Inv := by
  unfold State.closeRun
  split
  · exact { h.catchUp with }
  · exact h

end Sys2Proof.Machine
end

