-- ==== Sys2Proof/Laws/Operands.lean ====
section
/-! SUPPORT. What each shared operation does, said once: the stack in RAM, zero-page pointers, traps, the operand
forms (which do not depend on PC and change nothing by resolving), and each shape of access. -/

namespace Sys2Proof.Machine

variable (s : State)

/-! ### Words -/

theorem zext16_toNat (z : Byte) : (zext16 z).toNat = z.toNat := by
  simp only [zext16, BitVec.toNat_setWidth]
  omega

theorem stackAddr_toNat (sp : Byte) : (stackAddr sp).toNat = 256 + sp.toNat := by
  revert sp
  decide +kernel

/-- The value of a word made of two bytes (00_scope R13). -/
theorem mkWord_toNat (hi lo : Byte) : (mkWord hi lo).toNat = 256 * hi.toNat + lo.toNat := by
  have h : (mkWord hi lo).toNat = hi.toNat <<< 8 ||| lo.toNat := BitVec.toNat_append hi lo
  rw [h, ← Nat.shiftLeft_add_eq_or_of_lt lo.isLt, Nat.shiftLeft_eq]
  omega

theorem hiByte_toNat (w : Word) : (hiByte w).toNat = w.toNat / 256 := by
  simp only [hiByte, BitVec.extractLsb'_toNat, Nat.shiftRight_eq_div_pow]
  omega

theorem loByte_toNat (w : Word) : (loByte w).toNat = w.toNat % 256 := by
  simp [loByte, BitVec.toNat_setWidth]

/-- The two bytes of a word make the word (00_scope R13). -/
@[simp] theorem mkWord_hiByte_loByte (w : Word) : mkWord (hiByte w) (loByte w) = w := by
  apply BitVec.eq_of_toNat_eq
  rw [mkWord_toNat, hiByte_toNat, loByte_toNat]
  omega

@[simp] theorem hiByte_mkWord (hi lo : Byte) : hiByte (mkWord hi lo) = hi := by
  apply BitVec.eq_of_toNat_eq
  rw [hiByte_toNat, mkWord_toNat]
  omega

@[simp] theorem loByte_mkWord (hi lo : Byte) : loByte (mkWord hi lo) = lo := by
  apply BitVec.eq_of_toNat_eq
  rw [loByte_toNat, mkWord_toNat]
  omega

/-! ### Zero page and the stack are RAM -/

/-- A zero-page read (20_memory R90). -/
theorem State.read_zeroPage (z : Byte) : s.read (zext16 z) = (s.ram.read z.toNat, s) := by
  have h : (zext16 z).toNat < 0x2000 := by rw [zext16_toNat]; omega
  rw [State.read_ram_cell _ _ h, zext16_toNat, Nat.mod_eq_of_lt (by omega)]

/-- The address of a zero-page pointer's high byte wraps in page 0 (40_engine R180). -/
theorem samePageNext_zeroPage (z : Byte) : samePageNext (zext16 z) = zext16 (z + 1) := by
  revert z
  decide +kernel

/-- A zero-page pointer (40_engine R193). -/
theorem State.read16Bug_zeroPage (z : Byte) :
    s.read16Bug (zext16 z) = (mkWord (s.ram.read (z + 1).toNat) (s.ram.read z.toNat), s) := by
  unfold State.read16Bug State.readPair
  simp only [samePageNext_zeroPage, State.read_zeroPage]

/-- A push writes one RAM cell and moves SP (42_stack R230). -/
theorem State.push_eq (v : Byte) : s.push v =
    { s with ram := s.ram.write (256 + s.sp.toNat) v, sp := s.sp - 1 } := by
  have h : (stackAddr s.sp).toNat < 0x2000 := by rw [stackAddr_toNat]; omega
  unfold State.push
  rw [State.write_ram_cell _ _ _ h, stackAddr_toNat, Nat.mod_eq_of_lt (by omega)]
  rfl

/-- A pull reads one RAM cell and moves SP (42_stack R230). -/
theorem State.pull_eq : s.pull = (s.ram.read (256 + (s.sp + 1).toNat), { s with sp := s.sp + 1 }) := by
  have h : (stackAddr (s.sp + 1)).toNat < 0x2000 := by rw [stackAddr_toNat]; omega
  unfold State.pull
  rw [State.read_ram_cell _ _ h, stackAddr_toNat, Nat.mod_eq_of_lt (by omega)]
  rfl

/-- A word pushed: high byte at SP, low byte below it. -/
theorem State.pushWord_eq (w : Word) : s.pushWord w = { s with
    ram := (s.ram.write (256 + s.sp.toNat) (hiByte w)).write (256 + (s.sp - 1).toNat) (loByte w)
    sp := s.sp - 1 - 1 } := by
  rw [State.pushWord, State.push_eq, State.push_eq]

/-- A word pulled: low byte first. -/
theorem State.pullWord_eq : s.pullWord =
    (mkWord (s.ram.read (256 + (s.sp + 1 + 1).toNat)) (s.ram.read (256 + (s.sp + 1).toNat)),
      { s with sp := s.sp + 1 + 1 }) := by
  rw [State.pullWord, State.pull_eq, State.pull_eq]

/-- A 16-bit read of cartridge space, low byte first, changes nothing (20_memory R86, R87). -/
theorem State.read16_cart (a : Word) (h : 0x6000 ≤ a.toNat) (h' : 0x6000 ≤ (a + 1).toNat) :
    s.read16 a = (mkWord (cartReadPrg s.cart (a + 1)) (cartReadPrg s.cart a), s) := by
  rw [State.read16, State.readPair, State.read_cart_cell _ _ h, State.read_cart_cell _ _ h']

/-- Taking a trap: three bytes pushed, I set, PC from the vector (60_exceptions R440, 45_control R283). -/
theorem State.takeTrap_eq (v : Word) (h : 0x6000 ≤ v.toNat) (h' : 0x6000 ≤ (v + 1).toNat) :
    s.takeTrap v = { s with
      ram := ((s.ram.write (256 + s.sp.toNat) (hiByte s.pc)).write (256 + (s.sp - 1).toNat)
        (loByte s.pc)).write (256 + (s.sp - 1 - 1).toNat) (pushedStatus s.p)
      sp := s.sp - 1 - 1 - 1
      p := putI s.p true
      pc := mkWord (cartReadPrg s.cart (v + 1)) (cartReadPrg s.cart v) } := by
  unfold State.takeTrap
  simp only
  rw [State.read16_cart _ _ h h', State.pushWord_eq, State.push_eq]
  rfl

/-- Returning from a trap (45_control R284). -/
theorem State.returnFromTrap_eq : s.returnFromTrap = { s with
    p := pulledStatus (s.ram.read (256 + (s.sp + 1).toNat))
    sp := s.sp + 1 + 1 + 1
    pc := mkWord (s.ram.read (256 + (s.sp + 1 + 1 + 1).toNat)) (s.ram.read (256 + (s.sp + 1 + 1).toNat)) } := by
  unfold State.returnFromTrap
  simp only
  rw [State.pull_eq, State.pullWord_eq]
  rfl

/-! ### Operand forms -/

/-- Resolving an address changes nothing: its pointer bytes lie in zero page. -/
@[simp] theorem AddrForm.resolve_state (f : AddrForm) : (f.resolve s).2 = s := by
  cases f <;> simp [AddrForm.resolve, State.read16Bug_zeroPage]

/-- Resolving an address does not depend on PC. -/
theorem AddrForm.resolve_setPC (f : AddrForm) (w : Word) : (f.resolve (s.setPC w)).1 = (f.resolve s).1 := by
  cases f <;> simp [AddrForm.resolve, State.read16Bug_zeroPage]

/-- Loading an operand does not depend on PC, and leaves it. -/
theorem Source.load_setPC (o : Source) (w : Word) :
    o.load (s.setPC w) = ⟨(o.load s).value, (o.load s).crossed, (o.load s).state.setPC w⟩ := by
  cases o with
  | imm i => rfl
  | mem f =>
    simp only [Source.load, AddrForm.resolve_setPC, AddrForm.resolve_state, State.read_setPC]

/-- The dummy read does not depend on PC. -/
theorem State.dummyRead_setPC (d : Desc) (e : Effective) (w : Word) :
    (s.setPC w).dummyRead d e = (s.dummyRead d e).setPC w := by
  unfold State.dummyRead
  split
  · rw [State.read_setPC]
  · rfl

/-! ### The shapes of access -/

/-- What a read instruction does: `f` of the operand loaded from the state as it was, PC moved. -/
theorem readOp_eq (d : Desc) (o : Source) (f : Byte → State → State) :
    readOp d o f s =
      (f (o.load s).value ((o.load s).state.setPC (s.pc + BitVec.ofNat 16 d.length))).addCycles
        (d.baseCycles + extraCycles d (o.load s).crossed false false) := by
  unfold readOp State.advance
  simp only [Source.load_setPC]

/-- What a store does: one write at the effective address, PC moved. -/
theorem storeOp_eq (d : Desc) (a : AddrForm) (v : State → Byte) (hv : ∀ t w, v (State.setPC t w) = v t) :
    storeOp d a v s =
      ((s.write (a.resolve s).1.ea (v s)).setPC (s.pc + BitVec.ofNat 16 d.length)).addCycles
        (d.baseCycles + extraCycles d (a.resolve s).1.crossed false false) := by
  unfold storeOp State.advance
  simp only [AddrForm.resolve_setPC, AddrForm.resolve_state, State.write_setPC, hv]

/-- What a memory read-modify-write does: the reads, one write, P and PC. -/
theorem rmwOp_mem_eq (d : Desc) (a : AddrForm) (f : Byte → Byte → Byte × Byte) :
    rmwOp d (.mem a) f s =
      let e := (a.resolve s).1
      let l := (s.dummyRead d e).read e.ea
      (((l.2.write e.ea (f l.1 s.p).1).setPC (s.pc + BitVec.ofNat 16 d.length)).setP (f l.1 s.p).2).addCycles
        (d.baseCycles + extraCycles d e.crossed false false) := by
  have hp : ∀ (d : Desc) (e : Effective), (s.dummyRead d e).p = s.p := by
    intro d e
    unfold State.dummyRead
    split
    · exact State.read_p _ _
    · rfl
  unfold rmwOp State.advance
  simp only [AddrForm.resolve_setPC, AddrForm.resolve_state, State.dummyRead_setPC, State.read_setPC,
    State.write_setPC, State.setPC_p, State.read_p, hp]

end Sys2Proof.Machine
end

