-- ==== Sys2Proof/Laws/PerInstr.lean ====
section
/-! SUPPORT. A fact of every instruction, constructor by constructor: its encoding is as long as its entry in the
descriptor table says (30_encoding R141, 40_engine R173). -/

namespace Sys2Proof.Laws.EncodeLength

/-- The encoding of a well-formed instruction has the length its descriptor gives. -/
def Statement (i : Instr) : Prop := i.wellFormed = true → (encode i).length = i.desc.length

/-- An opcode of a list of which every member has the property. -/
theorem of_contains {l : List Byte} {P : Byte → Prop} (h : ∀ b ∈ l, P b) {op : Byte}
    (ho : l.contains op = true) : P op :=
  h op (by simpa using ho)

theorem adc (m : ReadMode) : Statement (.adc m) := by
  cases m <;> exact fun _ => by dsimp only [Instr.desc, Instr.opcode]; rfl

theorem and (m : ReadMode) : Statement (.and m) := by
  cases m <;> exact fun _ => by dsimp only [Instr.desc, Instr.opcode]; rfl

theorem asl (m : ShiftMode) : Statement (.asl m) := by
  cases m <;> exact fun _ => by dsimp only [Instr.desc, Instr.opcode]; rfl

theorem bcc (o : Byte) : Statement (.bcc o) := fun _ => by dsimp only [Instr.desc, Instr.opcode]; rfl

theorem bcs (o : Byte) : Statement (.bcs o) := fun _ => by dsimp only [Instr.desc, Instr.opcode]; rfl

theorem beq (o : Byte) : Statement (.beq o) := fun _ => by dsimp only [Instr.desc, Instr.opcode]; rfl

theorem bit (m : BitMode) : Statement (.bit m) := by
  cases m <;> exact fun _ => by dsimp only [Instr.desc, Instr.opcode]; rfl

theorem bmi (o : Byte) : Statement (.bmi o) := fun _ => by dsimp only [Instr.desc, Instr.opcode]; rfl

theorem bne (o : Byte) : Statement (.bne o) := fun _ => by dsimp only [Instr.desc, Instr.opcode]; rfl

theorem bpl (o : Byte) : Statement (.bpl o) := fun _ => by dsimp only [Instr.desc, Instr.opcode]; rfl

theorem brk : Statement (.brk) := fun _ => by dsimp only [Instr.desc, Instr.opcode]; rfl

theorem bvc (o : Byte) : Statement (.bvc o) := fun _ => by dsimp only [Instr.desc, Instr.opcode]; rfl

theorem bvs (o : Byte) : Statement (.bvs o) := fun _ => by dsimp only [Instr.desc, Instr.opcode]; rfl

theorem clc : Statement (.clc) := fun _ => by dsimp only [Instr.desc, Instr.opcode]; rfl

theorem cld : Statement (.cld) := fun _ => by dsimp only [Instr.desc, Instr.opcode]; rfl

theorem cli : Statement (.cli) := fun _ => by dsimp only [Instr.desc, Instr.opcode]; rfl

theorem clv : Statement (.clv) := fun _ => by dsimp only [Instr.desc, Instr.opcode]; rfl

theorem cmp (m : ReadMode) : Statement (.cmp m) := by
  cases m <;> exact fun _ => by dsimp only [Instr.desc, Instr.opcode]; rfl

theorem cpx (m : CpxMode) : Statement (.cpx m) := by
  cases m <;> exact fun _ => by dsimp only [Instr.desc, Instr.opcode]; rfl

theorem cpy (m : CpxMode) : Statement (.cpy m) := by
  cases m <;> exact fun _ => by dsimp only [Instr.desc, Instr.opcode]; rfl

theorem dec (m : IncMode) : Statement (.dec m) := by
  cases m <;> exact fun _ => by dsimp only [Instr.desc, Instr.opcode]; rfl

theorem dex : Statement (.dex) := fun _ => by dsimp only [Instr.desc, Instr.opcode]; rfl

theorem dey : Statement (.dey) := fun _ => by dsimp only [Instr.desc, Instr.opcode]; rfl

theorem eor (m : ReadMode) : Statement (.eor m) := by
  cases m <;> exact fun _ => by dsimp only [Instr.desc, Instr.opcode]; rfl

theorem inc (m : IncMode) : Statement (.inc m) := by
  cases m <;> exact fun _ => by dsimp only [Instr.desc, Instr.opcode]; rfl

theorem inx : Statement (.inx) := fun _ => by dsimp only [Instr.desc, Instr.opcode]; rfl

theorem iny : Statement (.iny) := fun _ => by dsimp only [Instr.desc, Instr.opcode]; rfl

theorem jmp (m : JmpMode) : Statement (.jmp m) := by
  cases m <;> exact fun _ => by dsimp only [Instr.desc, Instr.opcode]; rfl

theorem jsr (w : Word) : Statement (.jsr w) := fun _ => by dsimp only [Instr.desc, Instr.opcode]; rfl

theorem lda (m : ReadMode) : Statement (.lda m) := by
  cases m <;> exact fun _ => by dsimp only [Instr.desc, Instr.opcode]; rfl

theorem ldx (m : LdxMode) : Statement (.ldx m) := by
  cases m <;> exact fun _ => by dsimp only [Instr.desc, Instr.opcode]; rfl

theorem ldy (m : LdyMode) : Statement (.ldy m) := by
  cases m <;> exact fun _ => by dsimp only [Instr.desc, Instr.opcode]; rfl

theorem lsr (m : ShiftMode) : Statement (.lsr m) := by
  cases m <;> exact fun _ => by dsimp only [Instr.desc, Instr.opcode]; rfl

theorem nop : Statement (.nop) := fun _ => by dsimp only [Instr.desc, Instr.opcode]; rfl

theorem ora (m : ReadMode) : Statement (.ora m) := by
  cases m <;> exact fun _ => by dsimp only [Instr.desc, Instr.opcode]; rfl

theorem pha : Statement (.pha) := fun _ => by dsimp only [Instr.desc, Instr.opcode]; rfl

theorem php : Statement (.php) := fun _ => by dsimp only [Instr.desc, Instr.opcode]; rfl

theorem pla : Statement (.pla) := fun _ => by dsimp only [Instr.desc, Instr.opcode]; rfl

theorem plp : Statement (.plp) := fun _ => by dsimp only [Instr.desc, Instr.opcode]; rfl

theorem rol (m : ShiftMode) : Statement (.rol m) := by
  cases m <;> exact fun _ => by dsimp only [Instr.desc, Instr.opcode]; rfl

theorem ror (m : ShiftMode) : Statement (.ror m) := by
  cases m <;> exact fun _ => by dsimp only [Instr.desc, Instr.opcode]; rfl

theorem rti : Statement (.rti) := fun _ => by dsimp only [Instr.desc, Instr.opcode]; rfl

theorem rts : Statement (.rts) := fun _ => by dsimp only [Instr.desc, Instr.opcode]; rfl

theorem sbc (m : ReadMode) : Statement (.sbc m) := by
  cases m <;> exact fun _ => by dsimp only [Instr.desc, Instr.opcode]; rfl

theorem sec : Statement (.sec) := fun _ => by dsimp only [Instr.desc, Instr.opcode]; rfl

theorem sed : Statement (.sed) := fun _ => by dsimp only [Instr.desc, Instr.opcode]; rfl

theorem sei : Statement (.sei) := fun _ => by dsimp only [Instr.desc, Instr.opcode]; rfl

theorem sta (m : MemMode) : Statement (.sta m) := by
  cases m <;> exact fun _ => by dsimp only [Instr.desc, Instr.opcode]; rfl

theorem stx (m : StxMode) : Statement (.stx m) := by
  cases m <;> exact fun _ => by dsimp only [Instr.desc, Instr.opcode]; rfl

theorem sty (m : StyMode) : Statement (.sty m) := by
  cases m <;> exact fun _ => by dsimp only [Instr.desc, Instr.opcode]; rfl

theorem tax : Statement (.tax) := fun _ => by dsimp only [Instr.desc, Instr.opcode]; rfl

theorem tay : Statement (.tay) := fun _ => by dsimp only [Instr.desc, Instr.opcode]; rfl

theorem tsx : Statement (.tsx) := fun _ => by dsimp only [Instr.desc, Instr.opcode]; rfl

theorem txa : Statement (.txa) := fun _ => by dsimp only [Instr.desc, Instr.opcode]; rfl

theorem txs : Statement (.txs) := fun _ => by dsimp only [Instr.desc, Instr.opcode]; rfl

theorem tya : Statement (.tya) := fun _ => by dsimp only [Instr.desc, Instr.opcode]; rfl

theorem kil (op : Byte) : Statement (.kil op) := by
  refine of_contains (P := fun op => (encode (.kil op)).length = (Instr.kil op).desc.length) ?_
  decide

theorem slo (m : MemMode) : Statement (.slo m) := by
  cases m <;> exact fun _ => by dsimp only [Instr.desc, Instr.opcode]; rfl

theorem rla (m : MemMode) : Statement (.rla m) := by
  cases m <;> exact fun _ => by dsimp only [Instr.desc, Instr.opcode]; rfl

theorem sre (m : MemMode) : Statement (.sre m) := by
  cases m <;> exact fun _ => by dsimp only [Instr.desc, Instr.opcode]; rfl

theorem rra (m : MemMode) : Statement (.rra m) := by
  cases m <;> exact fun _ => by dsimp only [Instr.desc, Instr.opcode]; rfl

theorem dcp (m : MemMode) : Statement (.dcp m) := by
  cases m <;> exact fun _ => by dsimp only [Instr.desc, Instr.opcode]; rfl

theorem isc (m : MemMode) : Statement (.isc m) := by
  cases m <;> exact fun _ => by dsimp only [Instr.desc, Instr.opcode]; rfl

theorem sax (m : SaxMode) : Statement (.sax m) := by
  cases m <;> exact fun _ => by dsimp only [Instr.desc, Instr.opcode]; rfl

theorem lax (m : LaxMode) : Statement (.lax m) := by
  cases m <;> exact fun _ => by dsimp only [Instr.desc, Instr.opcode]; rfl

theorem anc (op : Byte) (i : Byte) : Statement (.anc op i) := by
  refine of_contains (P := fun op => 2 = (desc op).length) ?_
  decide

theorem alr (i : Byte) : Statement (.alr i) := fun _ => by dsimp only [Instr.desc, Instr.opcode]; rfl

theorem arr (i : Byte) : Statement (.arr i) := fun _ => by dsimp only [Instr.desc, Instr.opcode]; rfl

theorem xaa (i : Byte) : Statement (.xaa i) := fun _ => by dsimp only [Instr.desc, Instr.opcode]; rfl

theorem axs (i : Byte) : Statement (.axs i) := fun _ => by dsimp only [Instr.desc, Instr.opcode]; rfl

theorem ahx (m : AhxMode) : Statement (.ahx m) := by
  cases m <;> exact fun _ => by dsimp only [Instr.desc, Instr.opcode]; rfl

theorem shy (w : Word) : Statement (.shy w) := fun _ => by dsimp only [Instr.desc, Instr.opcode]; rfl

theorem shx (w : Word) : Statement (.shx w) := fun _ => by dsimp only [Instr.desc, Instr.opcode]; rfl

theorem tas (w : Word) : Statement (.tas w) := fun _ => by dsimp only [Instr.desc, Instr.opcode]; rfl

theorem las (w : Word) : Statement (.las w) := fun _ => by dsimp only [Instr.desc, Instr.opcode]; rfl

theorem nopU (op : Byte) (e : Extra) : Statement (.nopU op e) := by
  cases e with
  | none =>
    refine of_contains (P := fun op => 1 = (desc op).length) ?_
    decide
  | byte b =>
    refine of_contains (P := fun op => 2 = (desc op).length) ?_
    decide
  | word w =>
    refine of_contains (P := fun op => 3 = (desc op).length) ?_
    decide

theorem sbcU (i : Byte) : Statement (.sbcU i) := fun _ => by dsimp only [Instr.desc, Instr.opcode]; rfl

end Sys2Proof.Laws.EncodeLength
end

