-- ==== Sys2Proof/Laws/Run.lean ====
section
/-! SUPPORT. Where a tick stands and how far it is to the next frame; what every iteration adds to the cycle
counter; and that the loops of `run` and `run_frame` end by themselves, so that the bounds on their recursion
are never reached (70_reset R466, R470; log 16). -/

namespace Sys2Proof.Machine

/-! ### The position of a tick -/

/-- The position and the frame mark, which rendering leaves alone (51_ppu R362, R384). -/
structure Ppu.SamePlace (p q : Ppu) : Prop where
  dot : q.dot = p.dot
  scanline : q.scanline = p.scanline
  frameReady : q.frameReady = p.frameReady

theorem Ppu.SamePlace.refl (p : Ppu) : p.SamePlace p := ⟨rfl, rfl, rfl⟩

theorem Ppu.SamePlace.trans {p q r : Ppu} (h : p.SamePlace q) (k : q.SamePlace r) : p.SamePlace r :=
  ⟨k.dot.trans h.dot, k.scanline.trans h.scanline, k.frameReady.trans h.frameReady⟩

/-- A conditional sub-step moves what its action moves. -/
theorem Ppu.SamePlace.ite {p q : Ppu} (c : Bool) (h : p.SamePlace q) : p.SamePlace (if c then q else p) := by
  cases c
  · exact .refl p
  · exact h

variable (cart : Option Cartridge) (params : Params) (p : Ppu)

theorem Ppu.renderPixel_place : p.SamePlace p.renderPixel := ⟨rfl, rfl, rfl⟩

theorem Ppu.backgroundFetch_place : p.SamePlace (p.backgroundFetch cart params) := by
  unfold Ppu.backgroundFetch
  simp only
  split <;> constructor <;> rfl

theorem Ppu.setV_place (v : BitVec 15) : p.SamePlace { p with v := v } := ⟨rfl, rfl, rfl⟩

theorem Ppu.scrollStep_place : p.SamePlace p.scrollStep :=
  ((Ppu.SamePlace.ite _ (Ppu.setV_place p _)).trans (.ite _ (Ppu.setV_place _ _))).trans
    (.ite _ (Ppu.setV_place _ _))

theorem Ppu.spriteStep_place : p.SamePlace (p.spriteStep cart params) := by
  unfold Ppu.spriteStep
  split
  · split <;> constructor <;> rfl
  · exact .refl p

theorem Ppu.renderStep_place : p.SamePlace (p.renderStep cart params) :=
  ((((Ppu.SamePlace.ite _ (Ppu.renderPixel_place p)).trans
    (.ite _ (Ppu.backgroundFetch_place cart params _))).trans (.ite _ (Ppu.setV_place _ _))).trans
    (.ite _ (Ppu.scrollStep_place _))).trans (Ppu.spriteStep_place cart params _)

/-- A tick ends where the position advance goes, and marks a frame exactly at scanline 241, dot 1 (51_ppu R361,
R384). -/
theorem Ppu.tick_place (tag : Pending) :
    (Ppu.tick cart params (p, tag)).1.dot = p.nmiCountdown.advance.dot ∧
    (Ppu.tick cart params (p, tag)).1.scanline = p.nmiCountdown.advance.scanline ∧
    ((Ppu.tick cart params (p, tag)).1.frameReady = true ↔ p.frameReady = true ∨
      (p.nmiCountdown.advance.scanline = 241 ∧ p.nmiCountdown.advance.dot = 1)) := by
  have hf : p.nmiCountdown.advance.frameReady = p.frameReady := by
    unfold Ppu.advance
    split
    · rfl
    split
    · rfl
    split <;> rfl
  show (Ppu.sequence cart params p.nmiCountdown).dot = _ ∧ (Ppu.sequence cart params p.nmiCountdown).scanline = _ ∧
    ((Ppu.sequence cart params p.nmiCountdown).frameReady = true ↔ _)
  rw [← hf]
  unfold Ppu.sequence
  simp only
  generalize p.nmiCountdown.advance = a
  have hr : a.SamePlace (if a.renderingEnabled then a.renderStep cart params else a) :=
    .ite _ (Ppu.renderStep_place cart params a)
  generalize (if a.renderingEnabled then a.renderStep cart params else a) = r at hr
  rw [← hr.dot, ← hr.scanline, ← hr.frameReady]
  by_cases h1 : r.scanline = 241 ∧ r.dot = 1
  · have hs : (r.vblankBegin params).scanline = 241 := h1.1
    have hd : (r.vblankBegin params).dot = 1 := h1.2
    simp only [h1.1, h1.2, hs, hd, beq_self_eq_true, Bool.and_self, if_true]
    exact ⟨hd, hs, iff_of_true rfl (by simp)⟩
  · have h1' : (r.scanline == 241 && r.dot == 1) = false := by simpa using h1
    simp only [h1', Bool.false_eq_true, if_false]
    split
    · exact ⟨rfl, rfl, by simp [h1, Ppu.flagsClear, Ppu.nmiChange]⟩
    · exact ⟨rfl, rfl, by simp [h1]⟩

/-! ### How far it is to the next frame -/

/-- A bound on the ticks until the next one that ends at scanline 241, dot 1; off the grid, where no run comes,
a line and a frame more. -/
def Ppu.toFrame (p : Ppu) : Nat :=
  if 340 < p.dot then 90000
  else if 261 < p.scanline then 89700 - p.dot
  else if 341 * p.scanline + p.dot < 82182 then 82182 - (341 * p.scanline + p.dot)
  else 171524 - (341 * p.scanline + p.dot)

theorem Ppu.toFrame_le : p.toFrame ≤ 90000 := by
  unfold Ppu.toFrame
  split
  · omega
  split
  · omega
  split <;> omega

/-- Where the position advance goes: past the skipped dot of an odd frame, along the line, to the next line, or to the
top (51_ppu R362, R363). -/
theorem Ppu.advance_cases :
    (p.scanline = 261 ∧ p.dot = 339 ∧ p.advance.dot = 0 ∧ p.advance.scanline = 0) ∨
    (p.dot + 1 ≤ 340 ∧ p.advance.dot = p.dot + 1 ∧ p.advance.scanline = p.scanline) ∨
    (340 < p.dot + 1 ∧ p.scanline + 1 ≤ 261 ∧ p.advance.dot = 0 ∧ p.advance.scanline = p.scanline + 1) ∨
    (340 < p.dot + 1 ∧ 261 < p.scanline + 1 ∧ p.advance.dot = 0 ∧ p.advance.scanline = 0) := by
  unfold Ppu.advance
  split
  · rename_i h
    simp only [Bool.and_eq_true, beq_iff_eq] at h
    exact .inl ⟨h.1.2, h.2, rfl, rfl⟩
  split
  · rename_i h
    exact .inr (.inl ⟨h, rfl, rfl⟩)
  split
  · rename_i h1 h2
    exact .inr (.inr (.inl ⟨Nat.not_le.1 h1, h2, rfl, rfl⟩))
  · rename_i h1 h2
    exact .inr (.inr (.inr ⟨Nat.not_le.1 h1, Nat.not_le.1 h2, rfl, rfl⟩))

/-- A tick marks a frame or comes nearer to the next. -/
theorem Ppu.tick_toFrame (tag : Pending) :
    (Ppu.tick cart params (p, tag)).1.frameReady = true ∨
      (Ppu.tick cart params (p, tag)).1.toFrame + 1 ≤ p.toFrame := by
  obtain ⟨hd, hs, hf⟩ := Ppu.tick_place cart params p tag
  by_cases h : p.nmiCountdown.advance.scanline = 241 ∧ p.nmiCountdown.advance.dot = 1
  · exact .inl (hf.2 (.inr h))
  right
  have hc := Ppu.advance_cases p.nmiCountdown
  have hp : p.nmiCountdown.dot = p.dot ∧ p.nmiCountdown.scanline = p.scanline := ⟨rfl, rfl⟩
  unfold Ppu.toFrame
  rw [hd, hs]
  generalize p.nmiCountdown.advance.dot = d at *
  generalize p.nmiCountdown.advance.scanline = l at *
  rw [hp.1, hp.2] at hc
  repeat' split
  all_goals omega

/-- So do any number of ticks; a marked frame stays marked. -/
theorem Ppu.ticks_toFrame (n : Nat) : ∀ (p : Ppu) (tag : Pending),
    (p.frameReady = true → (Ppu.ticks cart params n (p, tag)).1.frameReady = true) ∧
    ((Ppu.ticks cart params n (p, tag)).1.frameReady = true ∨
      (Ppu.ticks cart params n (p, tag)).1.toFrame + n ≤ p.toFrame) := by
  induction n with
  | zero => exact fun p tag => ⟨id, .inr (Nat.le_refl _)⟩
  | succ n ih =>
    intro p tag
    have ht := Ppu.tick_toFrame cart params p tag
    have hm := (Ppu.tick_place cart params p tag).2.2
    simp only [Ppu.ticks]
    generalize Ppu.tick cart params (p, tag) = u at ht hm ⊢
    obtain ⟨q, tag'⟩ := u
    simp only at ht hm
    obtain ⟨hk, hi⟩ := ih q tag'
    refine ⟨fun h => hk (hm.2 (.inl h)), ?_⟩
    rcases ht with ht | ht
    · exact .inl (hk ht)
    · exact hi.imp id fun hi => by omega

/-! ### A property of runs: the time, the cartridge, and the way to the next frame -/

variable {p}

theorem Ppu.SamePlace.toFrame {q : Ppu} (h : p.SamePlace q) : q.toFrame = p.toFrame := by
  unfold Ppu.toFrame
  rw [h.dot, h.scanline]

theorem Ppu.readReg_place (r : BitVec 3) :
    p.SamePlace (p.readReg cart params r).2 ∧ (p.readReg cart params r).2.lastSynced = p.lastSynced := by
  unfold Ppu.readReg
  repeat' split
  all_goals exact ⟨⟨rfl, rfl, rfl⟩, rfl⟩

theorem Ppu.writeReg_place (r : BitVec 3) (d : Byte) :
    p.SamePlace (p.writeReg cart params r d).1 ∧ (p.writeReg cart params r d).1.lastSynced = p.lastSynced := by
  unfold Ppu.writeReg Ppu.writeRegEffect
  repeat' split
  all_goals first
    | exact ⟨⟨rfl, rfl, rfl⟩, rfl⟩
    | (unfold Ppu.writeScroll; split <;> exact ⟨⟨rfl, rfl, rfl⟩, rfl⟩)
    | (unfold Ppu.writeAddr; split <;> exact ⟨⟨rfl, rfl, rfl⟩, rfl⟩)
    | (unfold Ppu.writeData Ppu.busWrite
       simp only
       repeat' split
       all_goals exact ⟨⟨rfl, rfl, rfl⟩, rfl⟩)

/-- A state on the way to the frame due once `goal` ticks have been replayed, with a cartridge, no open `run` call,
and no tick replayed before its time. -/
structure OnWay (goal : Nat) (s : State) : Prop where
  synced : s.ppu.lastSynced ≤ s.cycles
  near : s.ppu.frameReady = true ∨ s.ppu.toFrame + s.ppu.lastSynced * 3 ≤ goal
  cart : s.cart ≠ none
  closed : s.runStart = none

variable {goal : Nat} {s : State}

theorem OnWay.catchUp (h : OnWay goal s) : OnWay goal s.catchUp where
  synced := Nat.le_refl _
  near := by
    have hn := Ppu.ticks_toFrame s.cart s.params s.ticksOwed s.ppu s.pending
    show s.replayed.1.frameReady = true ∨ s.replayed.1.toFrame + s.cycles * 3 ≤ goal
    have hs := h.synced
    rcases h.near with hf | hf
    · exact .inl (hn.1 hf)
    · refine hn.2.imp id fun hk => ?_
      unfold State.ticksOwed at hk
      unfold State.replayed State.ticksOwed
      omega
  cart := h.cart
  closed := h.closed

/-- A change of the PPU's registers and memories alone. -/
theorem OnWay.ppu (h : OnWay goal s) {q : Ppu} (hq : s.ppu.SamePlace q) (hl : q.lastSynced = s.ppu.lastSynced) :
    OnWay goal { s with ppu := q } where
  synced := by show q.lastSynced ≤ s.cycles; rw [hl]; exact h.synced
  near := by
    show q.frameReady = true ∨ q.toFrame + q.lastSynced * 3 ≤ goal
    rw [hq.frameReady, hq.toFrame, hl]
    exact h.near
  cart := h.cart
  closed := h.closed

theorem OnWay.read (h : OnWay goal s) (addr : Word) : OnWay goal (s.read addr).2 := by
  unfold State.read
  split
  · exact h
  split
  · have hr := Ppu.readReg_place s.catchUp.cart s.catchUp.params (p := s.catchUp.ppu) (addr.setWidth 3)
    exact h.catchUp.ppu hr.1 hr.2
  split
  · exact { h with }
  split
  · exact { h with }
  split <;> exact h

theorem OnWay.dmaCopy (n : Nat) : ∀ (addr : Word) (s : State), OnWay goal s → OnWay goal (State.dmaCopy n addr s) := by
  induction n with
  | zero => exact fun _ _ h => h
  | succ n ih => exact fun addr s h => ih _ _ ((h.read addr).ppu ⟨rfl, rfl, rfl⟩ rfl)

theorem OnWay.write (h : OnWay goal s) (addr : Word) (v : Byte) : OnWay goal (s.write addr v) := by
  unfold State.write
  split
  · exact { h with }
  split
  · have hw := Ppu.writeReg_place s.catchUp.cart s.catchUp.params (p := s.catchUp.ppu) (addr.setWidth 3) v
    have hc : (s.catchUp.ppu.writeReg s.catchUp.cart s.catchUp.params (addr.setWidth 3) v).2 ≠ none := by
      rw [writeReg_cart]
      split
      · unfold Ppu.busWrite
        repeat' split
        · simpa [cartWriteChr] using h.cart
        · exact h.cart
        · exact h.cart
      · exact h.cart
    exact { h.catchUp.ppu hw.1 hw.2 with cart := hc }
  split
  · have hd := OnWay.dmaCopy 256 (mkWord v 0) s h
    unfold State.oamDma
    generalize State.dmaCopy 256 (mkWord v 0) s = t at hd ⊢
    exact { hd with }
  split
  · unfold State.strobeWrite
    split
    · exact { h with }
    split
    · exact { h with }
    · exact h
  split
  · exact { h with cart := by simpa [cartWritePrg] using h.cart }
  · exact h

/-- Everything an iteration does keeps a run on its way. -/
theorem OnWay.stepClosed : StepClosed (OnWay goal) where
  read _ addr h := h.read addr
  write _ addr v h := h.write addr v
  setA _ _ h := { h with }
  setX _ _ h := { h with }
  setY _ _ h := { h with }
  setSP _ _ h := { h with }
  setPC _ _ h := { h with }
  setP _ _ h := { h with }
  addCycles _ _ h := { h with synced := Nat.le_trans h.synced (Nat.le_add_right _ _) }
  refuse _ h := { h with }
  markStubbed _ h := { h with }
  boundary _ _ _ _ h := { h with }

/-! ### Time -/

/-- Bus accesses and register writes take no time; the time is added at the end (40_engine R176). -/
theorem atCycle_closed (c : Nat) : BusClosed (fun s => s.cycles = c) where
  read _ _ h := by simpa using h
  write _ _ _ h := by simpa using h
  setA _ _ h := h
  setX _ _ h := h
  setY _ _ h := h
  setSP _ _ h := h
  setPC _ _ h := h
  setP _ _ h := h

theorem State.cycles_le_beforeFetch (s : State) : s.cycles ≤ s.beforeFetch.cycles := by
  have hs : s.stallBlock.sampleIrq.cycles = s.cycles + s.stall := by
    unfold State.sampleIrq
    split <;> rfl
  unfold State.beforeFetch State.interruptCheck
  have hi : ∀ v, s.cycles ≤ (s.stallBlock.sampleIrq.enterInterrupt v).cycles := by
    intro v
    have ht := (atCycle_closed _).takeTrap hs v
    show s.cycles ≤ (s.stallBlock.sampleIrq.takeTrap v).cycles + 7
    rw [ht]
    omega
  split
  · exact hi _
  · split
    · rw [hs]
      exact Nat.le_add_right _ _
    · exact hi _
  · rw [hs]
    exact Nat.le_add_right _ _

/-- An iteration never turns the counter back, and takes at least two cycles unless it refuses (10_state R40). -/
theorem engineStep_cycles {t : State} (ht : engineStep s = .next t) :
    s.cycles ≤ t.cycles ∧ (t.refused = false → s.cycles + 2 ≤ t.cycles) := by
  have hb := s.cycles_le_beforeFetch
  have hP := atCycle_closed s.beforeFetch.cycles
  have hf : s.beforeFetch.fetch.2.cycles = s.beforeFetch.cycles := hP.fetch (s := s.beforeFetch) rfl
  obtain ⟨u, hu, he⟩ := exec_ends hP s.beforeFetch.fetch.1 hf
  have : t = u := by
    unfold engineStep iteration at ht
    split at ht
    · cases ht
    split at ht
    · cases ht
    · rw [hu] at ht
      cases ht
      rfl
  subst this
  cases he with
  | refuse =>
    refine ⟨?_, fun h => by cases h⟩
    show s.cycles ≤ s.beforeFetch.fetch.2.cycles
    rw [hf]
    exact hb
  | timed k =>
    obtain ⟨v, n, hv, hn, rfl⟩ := k
    have : (v.addCycles n).cycles = s.beforeFetch.cycles + n := congrArg (· + n) hv
    omega
  | stub k =>
    obtain ⟨v, n, hv, hn, rfl⟩ := k
    have : (v.addCycles n).markStubbed.cycles = s.beforeFetch.cycles + n := congrArg (· + n) hv
    omega

/-- An iteration in a state that is not refused and has a cartridge answers a next state (20_memory R80). -/
theorem engineStep_next (hr : s.refused = false) (hc : s.cart ≠ none) : ∃ t, engineStep s = .next t := by
  obtain ⟨c, hc⟩ := Option.ne_none_iff_exists'.1 hc
  obtain ⟨t, ht, -⟩ := exec_ends (P := fun _ => True) (by constructor <;> intros <;> trivial)
    s.beforeFetch.fetch.1 (s := s.beforeFetch.fetch.2) trivial
  exact ⟨t, by simp [engineStep, hr, hc, iteration, ht]⟩

/-! ### The loops end -/

/-- What the loop of a `run` call ends in, from a state that has `cycles`. -/
structure RunEnd (goal budget cycles : Nat) (t : State) : Prop where
  onWay : OnWay goal t
  caughtUp : t.ppu.lastSynced = t.cycles
  monotone : cycles ≤ t.cycles
  spent : t.refused = true ∨ (budget ≤ t.cycles - cycles ∧ cycles + 2 ≤ t.cycles)

theorem runLoop_ends (budget start : Nat) : ∀ (fuel : Nat) (s : State), OnWay goal s → start ≤ s.cycles →
    budget < fuel + (s.cycles - start) → 0 < fuel →
    ∃ t, runLoop budget start fuel s = .next t ∧ RunEnd goal budget start t := by
  intro fuel
  induction fuel with
  | zero => exact fun s _ _ _ h => absurd h (Nat.lt_irrefl 0)
  | succ fuel ih =>
    intro s h hs hb _
    have hi : ∃ t, runIteration s = .next t ∧ OnWay goal t ∧ s.cycles ≤ t.cycles ∧
        (t.refused = false → s.cycles + 2 ≤ t.cycles) := by
      unfold runIteration
      cases hr : s.refused with
      | true => exact ⟨s, by simp, h, Nat.le_refl _, fun hf => by rw [hr] at hf; cases hf⟩
      | false =>
        obtain ⟨t, ht⟩ := engineStep_next hr h.cart
        exact ⟨t, by simp [ht], OnWay.stepClosed.engineStep h ht, engineStep_cycles ht⟩
    obtain ⟨t, ht, hw, hc, hc2⟩ := hi
    simp only [runLoop, ht]
    by_cases he : (t.refused || decide (budget ≤ t.cycles - start)) = true
    · rw [if_pos he]
      refine ⟨_, rfl, hw.catchUp, rfl, Nat.le_trans hs hc, ?_⟩
      show t.refused = true ∨ (budget ≤ t.cycles - start ∧ start + 2 ≤ t.cycles)
      cases hr : t.refused with
      | true => exact .inl rfl
      | false =>
        have := hc2 hr
        rw [hr] at he
        exact .inr ⟨by simpa using he, by omega⟩
    · rw [if_neg he]
      simp only [Bool.or_eq_true, decide_eq_true_eq, not_or, Bool.not_eq_true] at he
      have := hc2 he.1
      exact ih t hw (Nat.le_trans hs hc) (by omega) (by omega)

/-- `run` ends by itself: it answers `cycles_executed` and a state with every owed tick replayed, in which the budget is
spent or the state is refused (70_reset R466, R467). -/
theorem run_ends (budget : Nat) (h : OnWay goal s) : ∃ t, run budget s = .next (t.cycles - s.cycles, t) ∧
    runCall budget s = .next (t.cycles - s.cycles, t) ∧ RunEnd goal budget s.cycles t := by
  obtain ⟨c, hc⟩ := Option.ne_none_iff_exists'.1 h.cart
  obtain ⟨t, ht, he⟩ := runLoop_ends budget s.cycles (budget + 1) s h (Nat.le_refl _) (by omega) (by omega)
  have hcall : runCall budget s = .next (t.cycles - s.cycles, t) := by simp [runCall, hc, ht]
  exact ⟨t, by simp [run, State.hostOp, h.closed, hcall], hcall, he⟩

/-- Between two calls of `run`, with every owed tick replayed, the frame is at most `toFrame` ticks off, and each
further call takes at least six of them. -/
theorem runFrameLoop_ends : ∀ (fuel : Nat) (s : State), s.ppu.lastSynced = s.cycles → s.cart ≠ none →
    s.runStart = none → s.ppu.toFrame < 6 * fuel →
    ∃ t, runFrameLoop fuel s = .next t ∧ (t.ppu.frameReady = true ∨ t.refused = true) := by
  intro fuel
  induction fuel with
  | zero => exact fun s _ _ _ h => absurd h (Nat.not_lt_zero _)
  | succ fuel ih =>
    intro s hs hc hr hn
    have hw : OnWay (s.ppu.toFrame + s.cycles * 3) s :=
      ⟨Nat.le_of_eq hs, .inr (by rw [hs]), hc, hr⟩
    obtain ⟨t, -, ht, he⟩ := run_ends s.params.runBudget hw
    simp only [runFrameLoop, ht]
    by_cases hd : (t.ppu.frameReady || t.refused) = true
    · rw [if_pos hd]
      exact ⟨t, rfl, by simpa using hd⟩
    · rw [if_neg hd]
      simp only [Bool.or_eq_true, not_or] at hd
      have hnear := he.onWay.near.resolve_left hd.1
      have hspent := (he.spent.resolve_left hd.2).2
      rw [he.caughtUp] at hnear
      exact ih t he.caughtUp he.onWay.cart he.onWay.closed (by omega)

/-- The same with one call more, from a state that has ticks to replay. -/
theorem runFrameLoop_ends_succ (fuel : Nat) (hf : 90000 < 6 * fuel) (hc : s.cart ≠ none) (hr : s.runStart = none)
    (hs : s.ppu.lastSynced ≤ s.cycles) :
    ∃ t, runFrameLoop (fuel + 1) s = .next t ∧ (t.ppu.frameReady = true ∨ t.refused = true) := by
  have hw : OnWay (90000 + s.cycles * 3) s :=
    ⟨hs, .inr (Nat.add_le_add (Ppu.toFrame_le _) (Nat.mul_le_mul_right 3 hs)), hc, hr⟩
  obtain ⟨t, -, ht, he⟩ := run_ends s.params.runBudget hw
  simp only [runFrameLoop, ht]
  by_cases hd : (t.ppu.frameReady || t.refused) = true
  · rw [if_pos hd]
    exact ⟨t, rfl, by simpa using hd⟩
  · rw [if_neg hd]
    have := Ppu.toFrame_le t.ppu
    exact runFrameLoop_ends fuel t he.caughtUp he.onWay.cart he.onWay.closed (by omega)

/-- `run_frame` ends by itself, with a frame ready or the state refused, from every state with a cartridge and no
open call whose PPU has replayed no tick before its time (70_reset R470). -/
theorem runFrame_ends (hc : s.cart ≠ none) (hr : s.runStart = none) (hs : s.ppu.lastSynced ≤ s.cycles) :
    ∃ t, runFrame s = .next t ∧ (t.ppu.frameReady = true ∨ t.refused = true) := by
  obtain ⟨t, ht, h⟩ := runFrameLoop_ends_succ (s := s.clearFrameReady) 89341 (by decide) hc hr hs
  exact ⟨t, by rw [← ht]; simp only [runFrame, State.hostOp, hr]; rfl, h⟩

end Sys2Proof.Machine
end

