-- ==== Sys2Proof/Tests/Slice0.lean ====
section
/-! SUPPORT. The model's own tests: the WellFormed smoke test, every opcode's word decoded, one or two steps of each
instruction, and a witness for the hypotheses of every statement. Expected values are those of 95_test_vectors.md
or hand calculation from the rules cited, never the model's own output. -/

namespace Sys2Proof.Tests

set_option Elab.async false

open Machine

/-! ### WellFormed: one term that passes and one that is refused, for each check -/

theorem test_wellFormed_kil : (Instr.kil 0xF2).wellFormed = true ∧ (Instr.kil 0x82).wellFormed = false := by
  decide

theorem test_wellFormed_anc : (Instr.anc 0x2B 1).wellFormed = true ∧ (Instr.anc 0x4B 1).wellFormed = false := by
  decide

/-- An opcode of another NOP size, an opcode that is no NOP variant, and the documented NOP are all refused. -/
theorem test_wellFormed_nopU :
    (Instr.nopU 0xFA .none).wellFormed = true ∧ (Instr.nopU 0x04 .none).wellFormed = false ∧
    (Instr.nopU 0xF4 (.byte 1)).wellFormed = true ∧ (Instr.nopU 0x0C (.byte 1)).wellFormed = false ∧
    (Instr.nopU 0xFC (.word 1)).wellFormed = true ∧ (Instr.nopU 0x80 (.word 1)).wellFormed = false ∧
    (Instr.nopU 0xEA .none).wellFormed = false := by
  decide

/-- What no check looks at is well formed. -/
theorem test_wellFormed_rest : (Instr.lda (.imm 0)).wellFormed = true ∧ Instr.brk.wellFormed = true := by
  decide

/-! ### Decoding: every opcode -/

/-- Each word decodes to its instruction, with nothing left over. -/
def decodesTo (l : List (List Byte × Instr)) : Bool :=
  l.all fun c =>
    match decode c.1 with
    | .ok (i, rest) => i == c.2 && rest == []
    | .error _ => false

/-- Loads (30_encoding R141, R144, R147). -/
theorem test_decode_loads : decodesTo [
    ([0xA0, 0x81], .ldy (.imm 0x81)), ([0xA1, 0x81], .lda (.izx 0x81)), ([0xA2, 0x81], .ldx (.imm 0x81)),
    ([0xA4, 0x81], .ldy (.zp 0x81)), ([0xA5, 0x81], .lda (.zp 0x81)), ([0xA6, 0x81], .ldx (.zp 0x81)),
    ([0xA9, 0x81], .lda (.imm 0x81)), ([0xAC, 0x34, 0x92], .ldy (.abs 0x9234)),
    ([0xAD, 0x34, 0x92], .lda (.abs 0x9234)), ([0xAE, 0x34, 0x92], .ldx (.abs 0x9234)),
    ([0xB1, 0x81], .lda (.izy 0x81)), ([0xB4, 0x81], .ldy (.zpx 0x81)), ([0xB5, 0x81], .lda (.zpx 0x81)),
    ([0xB6, 0x81], .ldx (.zpy 0x81)), ([0xB9, 0x34, 0x92], .lda (.aby 0x9234)),
    ([0xBC, 0x34, 0x92], .ldy (.abx 0x9234)), ([0xBD, 0x34, 0x92], .lda (.abx 0x9234)),
    ([0xBE, 0x34, 0x92], .ldx (.aby 0x9234))] = true := by
  decide +kernel

/-- Stores (30_encoding R141, R144, R147). -/
theorem test_decode_stores : decodesTo [
    ([0x81, 0x81], .sta (.izx 0x81)), ([0x84, 0x81], .sty (.zp 0x81)), ([0x85, 0x81], .sta (.zp 0x81)),
    ([0x86, 0x81], .stx (.zp 0x81)), ([0x8C, 0x34, 0x92], .sty (.abs 0x9234)),
    ([0x8D, 0x34, 0x92], .sta (.abs 0x9234)), ([0x8E, 0x34, 0x92], .stx (.abs 0x9234)),
    ([0x91, 0x81], .sta (.izy 0x81)), ([0x94, 0x81], .sty (.zpx 0x81)), ([0x95, 0x81], .sta (.zpx 0x81)),
    ([0x96, 0x81], .stx (.zpy 0x81)), ([0x99, 0x34, 0x92], .sta (.aby 0x9234)),
    ([0x9D, 0x34, 0x92], .sta (.abx 0x9234))] = true := by
  decide +kernel

/-- Transfers (30_encoding R141, R144, R147). -/
theorem test_decode_transfers : decodesTo [
    ([0x8A], .txa), ([0x98], .tya), ([0x9A], .txs), ([0xA8], .tay), ([0xAA], .tax), ([0xBA], .tsx)] = true := by
  decide +kernel

/-- Stack (30_encoding R141, R144, R147). -/
theorem test_decode_stack : decodesTo [
    ([0x08], .php), ([0x28], .plp), ([0x48], .pha), ([0x68], .pla)] = true := by
  decide +kernel

/-- Arithmetic (30_encoding R141, R144, R147). -/
theorem test_decode_arithmetic : decodesTo [
    ([0x61, 0x81], .adc (.izx 0x81)), ([0x65, 0x81], .adc (.zp 0x81)), ([0x69, 0x81], .adc (.imm 0x81)),
    ([0x6D, 0x34, 0x92], .adc (.abs 0x9234)), ([0x71, 0x81], .adc (.izy 0x81)),
    ([0x75, 0x81], .adc (.zpx 0x81)), ([0x79, 0x34, 0x92], .adc (.aby 0x9234)),
    ([0x7D, 0x34, 0x92], .adc (.abx 0x9234)), ([0xE1, 0x81], .sbc (.izx 0x81)), ([0xE5, 0x81], .sbc (.zp 0x81)),
    ([0xE9, 0x81], .sbc (.imm 0x81)), ([0xED, 0x34, 0x92], .sbc (.abs 0x9234)),
    ([0xF1, 0x81], .sbc (.izy 0x81)), ([0xF5, 0x81], .sbc (.zpx 0x81)),
    ([0xF9, 0x34, 0x92], .sbc (.aby 0x9234)), ([0xFD, 0x34, 0x92], .sbc (.abx 0x9234))] = true := by
  decide +kernel

/-- Logic (30_encoding R141, R144, R147). -/
theorem test_decode_logic : decodesTo [
    ([0x01, 0x81], .ora (.izx 0x81)), ([0x05, 0x81], .ora (.zp 0x81)), ([0x09, 0x81], .ora (.imm 0x81)),
    ([0x0D, 0x34, 0x92], .ora (.abs 0x9234)), ([0x11, 0x81], .ora (.izy 0x81)),
    ([0x15, 0x81], .ora (.zpx 0x81)), ([0x19, 0x34, 0x92], .ora (.aby 0x9234)),
    ([0x1D, 0x34, 0x92], .ora (.abx 0x9234)), ([0x21, 0x81], .and (.izx 0x81)), ([0x25, 0x81], .and (.zp 0x81)),
    ([0x29, 0x81], .and (.imm 0x81)), ([0x2D, 0x34, 0x92], .and (.abs 0x9234)),
    ([0x31, 0x81], .and (.izy 0x81)), ([0x35, 0x81], .and (.zpx 0x81)),
    ([0x39, 0x34, 0x92], .and (.aby 0x9234)), ([0x3D, 0x34, 0x92], .and (.abx 0x9234)),
    ([0x41, 0x81], .eor (.izx 0x81)), ([0x45, 0x81], .eor (.zp 0x81)), ([0x49, 0x81], .eor (.imm 0x81)),
    ([0x4D, 0x34, 0x92], .eor (.abs 0x9234)), ([0x51, 0x81], .eor (.izy 0x81)),
    ([0x55, 0x81], .eor (.zpx 0x81)), ([0x59, 0x34, 0x92], .eor (.aby 0x9234)),
    ([0x5D, 0x34, 0x92], .eor (.abx 0x9234))] = true := by
  decide +kernel

/-- Compares (30_encoding R141, R144, R147). -/
theorem test_decode_compares : decodesTo [
    ([0x24, 0x81], .bit (.zp 0x81)), ([0x2C, 0x34, 0x92], .bit (.abs 0x9234)), ([0xC0, 0x81], .cpy (.imm 0x81)),
    ([0xC1, 0x81], .cmp (.izx 0x81)), ([0xC4, 0x81], .cpy (.zp 0x81)), ([0xC5, 0x81], .cmp (.zp 0x81)),
    ([0xC9, 0x81], .cmp (.imm 0x81)), ([0xCC, 0x34, 0x92], .cpy (.abs 0x9234)),
    ([0xCD, 0x34, 0x92], .cmp (.abs 0x9234)), ([0xD1, 0x81], .cmp (.izy 0x81)),
    ([0xD5, 0x81], .cmp (.zpx 0x81)), ([0xD9, 0x34, 0x92], .cmp (.aby 0x9234)),
    ([0xDD, 0x34, 0x92], .cmp (.abx 0x9234)), ([0xE0, 0x81], .cpx (.imm 0x81)), ([0xE4, 0x81], .cpx (.zp 0x81)),
    ([0xEC, 0x34, 0x92], .cpx (.abs 0x9234))] = true := by
  decide +kernel

/-- Counts (30_encoding R141, R144, R147). -/
theorem test_decode_counts : decodesTo [
    ([0x88], .dey), ([0xC6, 0x81], .dec (.zp 0x81)), ([0xC8], .iny), ([0xCA], .dex),
    ([0xCE, 0x34, 0x92], .dec (.abs 0x9234)), ([0xD6, 0x81], .dec (.zpx 0x81)),
    ([0xDE, 0x34, 0x92], .dec (.abx 0x9234)), ([0xE6, 0x81], .inc (.zp 0x81)), ([0xE8], .inx),
    ([0xEE, 0x34, 0x92], .inc (.abs 0x9234)), ([0xF6, 0x81], .inc (.zpx 0x81)),
    ([0xFE, 0x34, 0x92], .inc (.abx 0x9234))] = true := by
  decide +kernel

/-- Shifts (30_encoding R141, R144, R147). -/
theorem test_decode_shifts : decodesTo [
    ([0x06, 0x81], .asl (.zp 0x81)), ([0x0A], .asl .acc), ([0x0E, 0x34, 0x92], .asl (.abs 0x9234)),
    ([0x16, 0x81], .asl (.zpx 0x81)), ([0x1E, 0x34, 0x92], .asl (.abx 0x9234)), ([0x46, 0x81], .lsr (.zp 0x81)),
    ([0x4A], .lsr .acc), ([0x4E, 0x34, 0x92], .lsr (.abs 0x9234)), ([0x56, 0x81], .lsr (.zpx 0x81)),
    ([0x5E, 0x34, 0x92], .lsr (.abx 0x9234))] = true := by
  decide +kernel

/-- Rotates (30_encoding R141, R144, R147). -/
theorem test_decode_rotates : decodesTo [
    ([0x26, 0x81], .rol (.zp 0x81)), ([0x2A], .rol .acc), ([0x2E, 0x34, 0x92], .rol (.abs 0x9234)),
    ([0x36, 0x81], .rol (.zpx 0x81)), ([0x3E, 0x34, 0x92], .rol (.abx 0x9234)), ([0x66, 0x81], .ror (.zp 0x81)),
    ([0x6A], .ror .acc), ([0x6E, 0x34, 0x92], .ror (.abs 0x9234)), ([0x76, 0x81], .ror (.zpx 0x81)),
    ([0x7E, 0x34, 0x92], .ror (.abx 0x9234))] = true := by
  decide +kernel

/-- Control (30_encoding R141, R144, R147). -/
theorem test_decode_control : decodesTo [
    ([0x00, 0xEE], .brk), ([0x20, 0x34, 0x92], .jsr 0x9234), ([0x40], .rti),
    ([0x4C, 0x34, 0x92], .jmp (.abs 0x9234)), ([0x60], .rts), ([0x6C, 0x34, 0x92], .jmp (.ind 0x9234))] = true := by
  decide +kernel

/-- Branches (30_encoding R141, R144, R147). -/
theorem test_decode_branches : decodesTo [
    ([0x10, 0x81], .bpl 0x81), ([0x30, 0x81], .bmi 0x81), ([0x50, 0x81], .bvc 0x81), ([0x70, 0x81], .bvs 0x81),
    ([0x90, 0x81], .bcc 0x81), ([0xB0, 0x81], .bcs 0x81), ([0xD0, 0x81], .bne 0x81), ([0xF0, 0x81], .beq 0x81)] = true := by
  decide +kernel

/-- Flags (30_encoding R141, R144, R147). -/
theorem test_decode_flags : decodesTo [
    ([0x18], .clc), ([0x38], .sec), ([0x58], .cli), ([0x78], .sei), ([0xB8], .clv), ([0xD8], .cld),
    ([0xEA], .nop), ([0xF8], .sed)] = true := by
  decide +kernel

/-- Undocumented rmw (30_encoding R141, R144, R147). -/
theorem test_decode_undocumented_rmw : decodesTo [
    ([0x03, 0x81], .slo (.izx 0x81)), ([0x07, 0x81], .slo (.zp 0x81)), ([0x0F, 0x34, 0x92], .slo (.abs 0x9234)),
    ([0x13, 0x81], .slo (.izy 0x81)), ([0x17, 0x81], .slo (.zpx 0x81)),
    ([0x1B, 0x34, 0x92], .slo (.aby 0x9234)), ([0x1F, 0x34, 0x92], .slo (.abx 0x9234)),
    ([0x23, 0x81], .rla (.izx 0x81)), ([0x27, 0x81], .rla (.zp 0x81)), ([0x2F, 0x34, 0x92], .rla (.abs 0x9234)),
    ([0x33, 0x81], .rla (.izy 0x81)), ([0x37, 0x81], .rla (.zpx 0x81)),
    ([0x3B, 0x34, 0x92], .rla (.aby 0x9234)), ([0x3F, 0x34, 0x92], .rla (.abx 0x9234)),
    ([0x43, 0x81], .sre (.izx 0x81)), ([0x47, 0x81], .sre (.zp 0x81)), ([0x4F, 0x34, 0x92], .sre (.abs 0x9234)),
    ([0x53, 0x81], .sre (.izy 0x81)), ([0x57, 0x81], .sre (.zpx 0x81)),
    ([0x5B, 0x34, 0x92], .sre (.aby 0x9234)), ([0x5F, 0x34, 0x92], .sre (.abx 0x9234)),
    ([0x63, 0x81], .rra (.izx 0x81)), ([0x67, 0x81], .rra (.zp 0x81)), ([0x6F, 0x34, 0x92], .rra (.abs 0x9234)),
    ([0x73, 0x81], .rra (.izy 0x81)), ([0x77, 0x81], .rra (.zpx 0x81)),
    ([0x7B, 0x34, 0x92], .rra (.aby 0x9234)), ([0x7F, 0x34, 0x92], .rra (.abx 0x9234)),
    ([0xC3, 0x81], .dcp (.izx 0x81)), ([0xC7, 0x81], .dcp (.zp 0x81)), ([0xCF, 0x34, 0x92], .dcp (.abs 0x9234)),
    ([0xD3, 0x81], .dcp (.izy 0x81)), ([0xD7, 0x81], .dcp (.zpx 0x81)),
    ([0xDB, 0x34, 0x92], .dcp (.aby 0x9234)), ([0xDF, 0x34, 0x92], .dcp (.abx 0x9234)),
    ([0xE3, 0x81], .isc (.izx 0x81)), ([0xE7, 0x81], .isc (.zp 0x81)), ([0xEF, 0x34, 0x92], .isc (.abs 0x9234)),
    ([0xF3, 0x81], .isc (.izy 0x81)), ([0xF7, 0x81], .isc (.zpx 0x81)),
    ([0xFB, 0x34, 0x92], .isc (.aby 0x9234)), ([0xFF, 0x34, 0x92], .isc (.abx 0x9234))] = true := by
  decide +kernel

/-- Undocumented access (30_encoding R141, R144, R147). -/
theorem test_decode_undocumented_access : decodesTo [
    ([0x83, 0x81], .sax (.izx 0x81)), ([0x87, 0x81], .sax (.zp 0x81)), ([0x8F, 0x34, 0x92], .sax (.abs 0x9234)),
    ([0x93, 0x81], .ahx (.izy 0x81)), ([0x97, 0x81], .sax (.zpy 0x81)), ([0x9B, 0x34, 0x92], .tas 0x9234),
    ([0x9C, 0x34, 0x92], .shy 0x9234), ([0x9E, 0x34, 0x92], .shx 0x9234),
    ([0x9F, 0x34, 0x92], .ahx (.aby 0x9234)), ([0xA3, 0x81], .lax (.izx 0x81)), ([0xA7, 0x81], .lax (.zp 0x81)),
    ([0xAB, 0x81], .lax (.imm 0x81)), ([0xAF, 0x34, 0x92], .lax (.abs 0x9234)),
    ([0xB3, 0x81], .lax (.izy 0x81)), ([0xB7, 0x81], .lax (.zpy 0x81)), ([0xBB, 0x34, 0x92], .las 0x9234),
    ([0xBF, 0x34, 0x92], .lax (.aby 0x9234))] = true := by
  decide +kernel

/-- Undocumented immediate (30_encoding R141, R144, R147). -/
theorem test_decode_undocumented_immediate : decodesTo [
    ([0x0B, 0x81], .anc 0x0B 0x81), ([0x2B, 0x81], .anc 0x2B 0x81), ([0x4B, 0x81], .alr 0x81),
    ([0x6B, 0x81], .arr 0x81), ([0x8B, 0x81], .xaa 0x81), ([0xCB, 0x81], .axs 0x81), ([0xEB, 0x81], .sbcU 0x81)] = true := by
  decide +kernel

/-- Undocumented nop (30_encoding R141, R144, R147). -/
theorem test_decode_undocumented_nop : decodesTo [
    ([0x04, 0x81], .nopU 0x04 (.byte 0x81)), ([0x0C, 0x34, 0x92], .nopU 0x0C (.word 0x9234)),
    ([0x14, 0x81], .nopU 0x14 (.byte 0x81)), ([0x1A], .nopU 0x1A .none),
    ([0x1C, 0x34, 0x92], .nopU 0x1C (.word 0x9234)), ([0x34, 0x81], .nopU 0x34 (.byte 0x81)),
    ([0x3A], .nopU 0x3A .none), ([0x3C, 0x34, 0x92], .nopU 0x3C (.word 0x9234)),
    ([0x44, 0x81], .nopU 0x44 (.byte 0x81)), ([0x54, 0x81], .nopU 0x54 (.byte 0x81)),
    ([0x5A], .nopU 0x5A .none), ([0x5C, 0x34, 0x92], .nopU 0x5C (.word 0x9234)),
    ([0x64, 0x81], .nopU 0x64 (.byte 0x81)), ([0x74, 0x81], .nopU 0x74 (.byte 0x81)),
    ([0x7A], .nopU 0x7A .none), ([0x7C, 0x34, 0x92], .nopU 0x7C (.word 0x9234)),
    ([0x80, 0x81], .nopU 0x80 (.byte 0x81)), ([0x82, 0x81], .nopU 0x82 (.byte 0x81)),
    ([0x89, 0x81], .nopU 0x89 (.byte 0x81)), ([0xC2, 0x81], .nopU 0xC2 (.byte 0x81)),
    ([0xD4, 0x81], .nopU 0xD4 (.byte 0x81)), ([0xDA], .nopU 0xDA .none),
    ([0xDC, 0x34, 0x92], .nopU 0xDC (.word 0x9234)), ([0xE2, 0x81], .nopU 0xE2 (.byte 0x81)),
    ([0xF4, 0x81], .nopU 0xF4 (.byte 0x81)), ([0xFA], .nopU 0xFA .none),
    ([0xFC, 0x34, 0x92], .nopU 0xFC (.word 0x9234))] = true := by
  decide +kernel

/-- Kil (30_encoding R141, R144, R147). -/
theorem test_decode_kil : decodesTo [
    ([0x02], .kil 0x02), ([0x12], .kil 0x12), ([0x22], .kil 0x22), ([0x32], .kil 0x32), ([0x42], .kil 0x42),
    ([0x52], .kil 0x52), ([0x62], .kil 0x62), ([0x72], .kil 0x72), ([0x92], .kil 0x92), ([0xB2], .kil 0xB2),
    ([0xD2], .kil 0xD2), ([0xF2], .kil 0xF2)] = true := by
  decide +kernel

/-- Too few bytes are rejected by name. -/
theorem test_decode_short : decode [] = .error .noOpcode ∧ decode [0xAD, 0x34] = .error (.missingOperand 0xAD) :=
  ⟨rfl, rfl⟩

/-- The table's bit numbering: the first byte is bits 7:0 (spec/opcode_table.json). -/
theorem test_decodeTableWord : decodeTableWord 24 0x92344C = some (.jmp (.abs 0x9234)) ∧
    decodeTableWord 8 0xA9 = some (.lda (.imm 0)) := by
  decide +kernel

/-! ### One instruction at a time (95_test_vectors.md 2.1–2.7) -/

/-- The start state of 95_test_vectors.md: reset, a 16 KB PRG image, PC = 8000, NMI_DELAY_TICKS = 15, and both
interrupt vectors 9000. -/
def ready : State :=
  { State.reset with
    pc := 0x8000
    params := { Params.default with nmiDelayTicks := 15, fourScreenMap := #v[0, 0, 0, 0] }
    cart := some { blankCartridge with prg := [(0x3FFB, 0x90), (0x3FFD, 0x80), (0x3FFF, 0x90)] } }

/-- A, X, Y, SP, P, PC and cycles. -/
def regs (s : State) : Byte × Byte × Byte × Byte × Byte × Word × Nat :=
  (s.a, s.x, s.y, s.sp, s.p, s.pc, s.cycles)

/-- Whether an outcome is a next state with these registers. -/
def gives (r : Result) (a x y sp p : Byte) (pc : Word) (cycles : Nat) : Bool :=
  match r with
  | .next t => regs t == (a, x, y, sp, p, pc, cycles)
  | _ => false

/-- Whether an outcome is a next state of which the test holds. -/
def after (r : Result) (f : State → Bool) : Bool :=
  match r with
  | .next t => f t
  | _ => false

theorem test_lda_imm : gives (exec (.lda (.imm 0x80)) ready) 0x80 0 0 0xFD 0xA4 0x8002 2 = true := by decide +kernel

/-- Pointer wrap and page cross. -/
theorem test_lda_izy : gives (exec (.lda (.izy 0xFF)) { ready with
    y := 1, ram := [(0, 0x02), (0xFF, 0xFF), (0x300, 0x11)] }) 0x11 0 1 0xFD 0x24 0x8002 6 = true := by
  decide +kernel

/-- Zero-page wrap. -/
theorem test_ldx_zpy : gives (exec (.ldx (.zpy 0xFF)) { ready with y := 3, ram := [(2, 0x81)] })
    0 0x81 3 0xFD 0xA4 0x8002 4 = true := by
  decide +kernel

theorem test_ldy_zpx : gives (exec (.ldy (.zpx 0x10)) { ready with x := 0xF0, y := 5 })
    0 0xF0 0 0xFD 0x26 0x8002 4 = true := by
  decide +kernel

/-- A RAM mirror; no flag. -/
theorem test_sta_abs : after (exec (.sta (.abs 0x0800)) { ready with a := 0xAB })
    (fun t => t.ram == [(0, 0xAB)] && t.p == 0x24 && t.cycles == 4) = true := by
  decide +kernel

/-- Page cross without a bonus. -/
theorem test_sta_izy : after (exec (.sta (.izy 0x20))
    { ready with a := 5, y := 0x10, ram := [(0x20, 0xF8), (0x21, 0x03)] })
    (fun t => t.ram.read 0x408 == 5 && t.cycles == 6) = true := by
  decide +kernel

/-- The top RAM mirror. -/
theorem test_stx_abs : after (exec (.stx (.abs 0x1FFF)) { ready with x := 0x3C })
    (fun t => t.ram == [(0x7FF, 0x3C)] && t.cycles == 4) = true := by
  decide +kernel

/-- Zero-page wrap. -/
theorem test_sty_zpx : after (exec (.sty (.zpx 0x80)) { ready with y := 0x77, x := 0x90 })
    (fun t => t.ram == [(0x10, 0x77)] && t.cycles == 4) = true := by
  decide +kernel

theorem test_tax : gives (exec .tax { ready with x := 5 }) 0 0 0 0xFD 0x26 0x8001 2 = true := by decide +kernel

theorem test_tay : gives (exec .tay { ready with a := 0xFF }) 0xFF 0 0xFF 0xFD 0xA4 0x8001 2 = true := by
  decide +kernel

theorem test_tsx : gives (exec .tsx ready) 0 0xFD 0 0xFD 0xA4 0x8001 2 = true := by decide +kernel

theorem test_txa : gives (exec .txa { ready with a := 0x12 }) 0 0 0 0xFD 0x26 0x8001 2 = true := by decide +kernel

/-- No flag. -/
theorem test_txs : gives (exec .txs ready) 0 0 0 0 0x24 0x8001 2 = true := by decide +kernel

theorem test_tya : gives (exec .tya { ready with y := 0xC0 }) 0xC0 0 0xC0 0xFD 0xA4 0x8001 2 = true := by
  decide +kernel

/-- SP wraps from 00 to FF. -/
theorem test_pha : after (exec .pha { ready with a := 0x12, sp := 0 })
    (fun t => t.ram == [(0x100, 0x12)] && t.sp == 0xFF && t.cycles == 3) = true := by
  decide +kernel

/-- SP wraps from FF to 00. -/
theorem test_pla : gives (exec .pla { ready with sp := 0xFF, ram := [(0x100, 0x80)] })
    0x80 0 0 0 0xA4 0x8001 4 = true := by
  decide +kernel

/-- The pushed byte has B and U set; P keeps its own. -/
theorem test_php : after (exec .php ready)
    (fun t => t.ram == [(0x1FD, 0x34)] && t.sp == 0xFC && t.p == 0x24 && t.cycles == 3) = true := by
  decide +kernel

/-- B is forced to 0 and U to 1: of FF, and of 00. -/
theorem test_plp : gives (exec .plp { ready with sp := 0xFC, ram := [(0x1FD, 0xFF)] })
      0 0 0 0xFD 0xEF 0x8001 4 = true ∧
    gives (exec .plp { ready with sp := 0xFC }) 0 0 0 0xFD 0x20 0x8001 4 = true := by
  decide +kernel

/-- Negative overflow with carry out. -/
theorem test_adc : gives (exec (.adc (.imm 0x80)) { ready with a := 0x80 }) 0 0 0 0xFD 0x67 0x8002 2 = true := by
  decide +kernel

/-- No decimal mode. -/
theorem test_adc_decimal : gives (exec (.adc (.imm 1)) { ready with a := 9, p := 0x2C })
    0x0A 0 0 0xFD 0x2C 0x8002 2 = true := by
  decide +kernel

/-- A borrow in; then an overflow. -/
theorem test_sbc : gives (exec (.sbc (.imm 0)) ready) 0xFF 0 0 0xFD 0xA4 0x8002 2 = true ∧
    gives (exec (.sbc (.imm 1)) { ready with a := 0x80, p := 0x25 }) 0x7F 0 0 0xFD 0x65 0x8002 2 = true := by
  decide +kernel

theorem test_and : gives (exec (.and (.imm 0x0F)) { ready with a := 0xF0 }) 0 0 0 0xFD 0x26 0x8002 2 = true := by
  decide +kernel

theorem test_ora : gives (exec (.ora (.imm 0x80)) { ready with a := 1 }) 0x81 0 0 0xFD 0xA4 0x8002 2 = true := by
  decide +kernel

theorem test_eor : gives (exec (.eor (.imm 0xFF)) { ready with a := 0xFF }) 0 0 0 0xFD 0x26 0x8002 2 = true := by
  decide +kernel

/-- Equal; then less unsigned although the difference is positive as signed numbers. -/
theorem test_cmp : gives (exec (.cmp (.imm 0x40)) { ready with a := 0x40 }) 0x40 0 0 0xFD 0x27 0x8002 2 = true ∧
    gives (exec (.cmp (.imm 0xC0)) { ready with a := 0x40 }) 0x40 0 0 0xFD 0xA4 0x8002 2 = true := by
  decide +kernel

theorem test_cpx : gives (exec (.cpx (.imm 0)) { ready with x := 0x80 }) 0 0x80 0 0xFD 0xA5 0x8002 2 = true := by
  decide +kernel

theorem test_cpy : gives (exec (.cpy (.zp 0x10)) { ready with y := 5, ram := [(0x10, 6)] })
    0 0 5 0xFD 0xA4 0x8002 3 = true := by
  decide +kernel

/-- Z from the AND, N and V from memory: set, then cleared. -/
theorem test_bit : gives (exec (.bit (.zp 0x10)) { ready with a := 1, ram := [(0x10, 0xC0)] })
      1 0 0 0xFD 0xE6 0x8002 3 = true ∧
    gives (exec (.bit (.zp 0x10)) { ready with a := 0x41, p := 0xE4, ram := [(0x10, 0x41)] })
      0x41 0 0 0xFD 0x64 0x8002 3 = true := by
  decide +kernel

theorem test_inc : after (exec (.inc (.zp 0x10)) { ready with ram := [(0x10, 0xFF)] })
    (fun t => t.ram == [] && t.p == 0x26 && t.cycles == 5) = true := by
  decide +kernel

/-- A crossing form has no bonus. -/
theorem test_dec : after (exec (.dec (.abx 0x12FF)) { ready with x := 1, ram := [(0x300, 1)] })
    (fun t => t.ram == [] && t.p == 0x26 && t.cycles == 7 && t.pc == 0x8003) = true := by
  decide +kernel

/-- The dummy read is made (40_engine R182): 20FF + 8 crosses, so `$2007` is read at 2007 (dummy), read at 2107 and
written at 2107, and `v` moves three times; 0 - 1 = FF is written at PPU address 2. -/
theorem test_dec_dummy_read : after (exec (.dec (.abx 0x20FF)) { ready with x := 8 })
    (fun t => t.ppu.v == 3 && t.ppu.latch == 0xFF && t.cart.map (·.chr) == some [(2, 0xFF)]) = true := by
  decide +kernel

theorem test_inx : gives (exec .inx { ready with x := 0xFF }) 0 0 0 0xFD 0x26 0x8001 2 = true := by decide +kernel

theorem test_iny : gives (exec .iny { ready with y := 0x7F }) 0 0 0x80 0xFD 0xA4 0x8001 2 = true := by decide +kernel

theorem test_dex : gives (exec .dex { ready with x := 1 }) 0 0 0 0xFD 0x26 0x8001 2 = true := by decide +kernel

theorem test_dey : gives (exec .dey ready) 0 0 0xFF 0xFD 0xA4 0x8001 2 = true := by decide +kernel

theorem test_asl : gives (exec (.asl .acc) { ready with a := 0x81 }) 2 0 0 0xFD 0x25 0x8001 2 = true := by
  decide +kernel

theorem test_asl_abx : after (exec (.asl (.abx 0x12FF)) { ready with x := 1, ram := [(0x300, 0x81)] })
    (fun t => t.ram == [(0x300, 2)] && t.p == 0x25 && t.cycles == 7) = true := by
  decide +kernel

theorem test_lsr : gives (exec (.lsr .acc) { ready with a := 1 }) 0 0 0 0xFD 0x27 0x8001 2 = true := by
  decide +kernel

/-- No cross: still 7 cycles. -/
theorem test_lsr_abx : after (exec (.lsr (.abx 0x12F0)) { ready with x := 1, ram := [(0x2F1, 3)] })
    (fun t => t.ram == [(0x2F1, 1)] && t.p == 0x25 && t.cycles == 7) = true := by
  decide +kernel

theorem test_rol : gives (exec (.rol .acc) { ready with a := 0x80 }) 0 0 0 0xFD 0x27 0x8001 2 = true ∧
    gives (exec (.rol .acc) { ready with p := 0x25 }) 1 0 0 0xFD 0x24 0x8001 2 = true := by
  decide +kernel

theorem test_rol_zpx : after (exec (.rol (.zpx 0xFF)) { ready with x := 1, p := 0x25, ram := [(0, 0x7F)] })
    (fun t => t.ram == [(0, 0xFF)] && t.p == 0xA4 && t.cycles == 6) = true := by
  decide +kernel

theorem test_ror : gives (exec (.ror .acc) { ready with a := 1 }) 0 0 0 0xFD 0x27 0x8001 2 = true ∧
    gives (exec (.ror .acc) { ready with p := 0x25 }) 0x80 0 0 0xFD 0xA4 0x8001 2 = true := by
  decide +kernel

theorem test_ror_zp : after (exec (.ror (.zp 0x10)) { ready with p := 0x25, ram := [(0x10, 2)] })
    (fun t => t.ram == [(0x10, 0x81)] && t.p == 0xA4 && t.cycles == 5) = true := by
  decide +kernel

theorem test_jmp_abs : gives (exec (.jmp (.abs 0x1234)) ready) 0 0 0 0xFD 0x24 0x1234 3 = true := by
  decide +kernel

/-- The page-wrap bug, in RAM, and at the source's literal addresses (95 1.2): `$2007`, then `$2000`. -/
theorem test_jmp_ind : gives (exec (.jmp (.ind 0x02FF))
      { ready with ram := [(0x200, 0x80), (0x2FF, 0x40), (0x300, 0x50)] }) 0 0 0 0xFD 0x24 0x8040 5 = true ∧
    after (exec (.jmp (.ind 0x30FF)) ready) (fun t => t.pc == 0 && t.ppu.v == 1) = true := by
  decide +kernel

theorem test_jsr : after (exec (.jsr 0x9000) ready) (fun t => t.pc == 0x9000 && t.sp == 0xFB && t.cycles == 6 &&
    t.ram == [(0x1FC, 0x02), (0x1FD, 0x80)]) = true := by
  decide +kernel

/-- RTS adds 1 to the word pulled, mod 0x10000. -/
theorem test_rts : gives (exec .rts { ready with sp := 0xFB, ram := [(0x1FC, 2), (0x1FD, 0x80)] })
      0 0 0 0xFD 0x24 0x8003 6 = true ∧
    gives (exec .rts { ready with sp := 0xFB, ram := [(0x1FC, 0xFF), (0x1FD, 0xFF)] })
      0 0 0 0xFD 0x24 0x0000 6 = true := by
  decide +kernel

theorem test_rti : gives (exec .rti { ready with sp := 0xFA, ram := [(0x1FB, 0xC3), (0x1FC, 0x34), (0x1FD, 0x12)] })
    0 0 0 0xFD 0xE3 0x1234 6 = true := by
  decide +kernel

/-- The address pushed is that of the byte after the padding byte. -/
theorem test_brk : after (exec .brk { ready with p := 0x20 }) (fun t => t.pc == 0x9000 && t.sp == 0xFA &&
    t.p == 0x24 && t.cycles == 7 && t.ram == [(0x1FB, 0x30), (0x1FC, 0x02), (0x1FD, 0x80)]) = true := by
  decide +kernel

/-- Taken across a page; not taken. -/
theorem test_bcc : gives (exec (.bcc 0x7F) { ready with pc := 0x80F0 }) 0 0 0 0xFD 0x24 0x8171 4 = true ∧
    gives (exec (.bcc 0x10) { ready with p := 0x25 }) 0 0 0 0xFD 0x25 0x8002 2 = true := by
  decide +kernel

theorem test_bcs : gives (exec (.bcs 0x80) { ready with p := 0x25, pc := 0x8010 })
      0 0 0 0xFD 0x25 0x7F92 4 = true ∧
    gives (exec (.bcs 0x10) ready) 0 0 0 0xFD 0x24 0x8002 2 = true := by
  decide +kernel

/-- To itself. -/
theorem test_beq : gives (exec (.beq 0xFE) { ready with p := 0x26 }) 0 0 0 0xFD 0x26 0x8000 3 = true ∧
    gives (exec (.beq 0x10) ready) 0 0 0 0xFD 0x24 0x8002 2 = true := by
  decide +kernel

theorem test_bmi : gives (exec (.bmi 2) { ready with p := 0xA4 }) 0 0 0 0xFD 0xA4 0x8004 3 = true ∧
    gives (exec (.bmi 0x10) ready) 0 0 0 0xFD 0x24 0x8002 2 = true := by
  decide +kernel

theorem test_bne : gives (exec (.bne 0xFD) ready) 0 0 0 0xFD 0x24 0x7FFF 4 = true ∧
    gives (exec (.bne 5) { ready with p := 0x26 }) 0 0 0 0xFD 0x26 0x8002 2 = true := by
  decide +kernel

/-- PC wraps at the top of memory. -/
theorem test_bpl : gives (exec (.bpl 0x7F) { ready with pc := 0xFFF0 }) 0 0 0 0xFD 0x24 0x0071 4 = true ∧
    gives (exec (.bpl 0x10) { ready with p := 0xA4 }) 0 0 0 0xFD 0xA4 0x8002 2 = true := by
  decide +kernel

theorem test_bvc : gives (exec (.bvc 1) ready) 0 0 0 0xFD 0x24 0x8003 3 = true ∧
    gives (exec (.bvc 0x10) { ready with p := 0x64 }) 0 0 0 0xFD 0x64 0x8002 2 = true := by
  decide +kernel

theorem test_bvs : gives (exec (.bvs 0x10) { ready with p := 0x64 }) 0 0 0 0xFD 0x64 0x8012 3 = true ∧
    gives (exec (.bvs 1) ready) 0 0 0 0xFD 0x24 0x8002 2 = true := by
  decide +kernel

/-- P = E7, and P = 20 (95 2.6). -/
def flagTest (i : Instr) (p q : Byte) : Bool :=
  gives (exec i { ready with p := 0xE7 }) 0 0 0 0xFD p 0x8001 2 &&
    gives (exec i { ready with p := 0x20 }) 0 0 0 0xFD q 0x8001 2

theorem test_clc : flagTest .clc 0xE6 0x20 = true := by decide +kernel
theorem test_sec : flagTest .sec 0xE7 0x21 = true := by decide +kernel
theorem test_cli : flagTest .cli 0xE3 0x20 = true := by decide +kernel
theorem test_sei : flagTest .sei 0xE7 0x24 = true := by decide +kernel
theorem test_cld : flagTest .cld 0xE7 0x20 = true := by decide +kernel
theorem test_sed : flagTest .sed 0xEF 0x28 = true := by decide +kernel
theorem test_clv : flagTest .clv 0xA7 0x20 = true := by decide +kernel
theorem test_nop : flagTest .nop 0xE7 0x20 = true := by decide +kernel

/-! Undocumented opcodes (95 2.7) -/

/-- `ready` under `StubNop`. -/
def stubbing : State := { ready with params := { ready.params with illegalMode := .stubNop } }

/-- Under `StubNop`: PC, cycles and the mark, nothing else. -/
def stubs (i : Instr) (length : Word) (cycles : Nat) : Bool :=
  after (exec i stubbing) fun t =>
    t == { stubbing with pc := stubbing.pc + length, cycles := cycles, stubbed := true }

/-- Under `Refuse`: the mark and nothing else. -/
def refuses (i : Instr) : Bool := after (exec i ready) fun t => t == { ready with refused := true }

theorem test_kil : refuses (.kil 0x02) = true ∧
    (after (exec (.kil 0x02) stubbing) fun t => t == { stubbing with refused := true }) = true := by
  decide +kernel

theorem test_undocumented_rmw : refuses (.slo (.izx 1)) = true ∧ stubs (.slo (.izx 1)) 2 8 = true ∧
    stubs (.rla (.abx 1)) 3 7 = true ∧ stubs (.sre (.zp 1)) 2 5 = true ∧ stubs (.rra (.zpx 1)) 2 6 = true ∧
    stubs (.dcp (.abs 1)) 3 6 = true ∧ stubs (.isc (.izy 1)) 2 8 = true := by
  decide +kernel

theorem test_undocumented_access : stubs (.sax (.zp 1)) 2 3 = true ∧ stubs (.lax (.zp 0x10)) 2 3 = true ∧
    stubs (.ahx (.aby 1)) 3 5 = true ∧ stubs (.shy 1) 3 5 = true ∧ stubs (.shx 1) 3 5 = true ∧
    stubs (.tas 1) 3 5 = true ∧ stubs (.las 1) 3 4 = true := by
  decide +kernel

theorem test_undocumented_immediate : stubs (.anc 0x0B 1) 2 2 = true ∧ stubs (.alr 1) 2 2 = true ∧
    stubs (.arr 1) 2 2 = true ∧ stubs (.xaa 1) 2 2 = true ∧ stubs (.axs 1) 2 2 = true ∧
    stubs (.sbcU 1) 2 2 = true := by
  decide +kernel

theorem test_undocumented_nop : stubs (.nopU 0x04 (.byte 1)) 2 3 = true ∧ stubs (.nopU 0x1C (.word 0x12FF)) 3 4 = true ∧
    stubs (.nopU 0x80 (.byte 1)) 2 2 = true ∧ stubs (.nopU 0x1A .none) 1 2 = true := by
  decide +kernel

/-! ### Steps (95 2.8, 2.14, 2.15) -/

/-- `ready` with bytes placed at 8000 and 9000, and a budget that keeps the `run` call open. -/
def program (code handler : Mem) : State :=
  { ready with
    params := { ready.params with runBudget := 1000000 }
    cart := some { blankCartridge with
      prg := code ++ handler ++ [(0x3FFB, 0x90), (0x3FFD, 0x80), (0x3FFF, 0x90)] } }

/-- The stall and the instruction belong to one step. -/
theorem test_step_stall : gives (step { program [(0, 0xEA)] [] with stall := 513 })
    0 0 0 0xFD 0x24 0x8001 515 = true := by
  decide +kernel

/-- Stall, NMI entry and the handler's first instruction in one step. -/
theorem test_step_nmi : after (step { program [] [(0x1000, 0xEA)] with stall := 514, p := 0xE3, pending := .nmi })
    (fun t => regs t == (0, 0, 0, 0xFA, 0xE7, 0x9001, 523) && t.pending == .none &&
      t.ram == [(0x1FB, 0xF3), (0x1FD, 0x80)]) = true := by
  decide +kernel

/-- A request on the IRQ line is taken with I = 0; with I = 1 it stays pending. -/
theorem test_step_irq : after (step { program [] [(0x1000, 0xEA)] with p := 0x20, irqLine := [true] })
      (fun t => t.pc == 0x9001 && t.p == 0x24 && t.cycles == 9 && t.pending == .none && t.irqLine == []) = true ∧
    after (step { program [(0, 0xEA)] [] with irqLine := [true] })
      (fun t => t.pc == 0x8001 && t.pending == .irq) = true := by
  decide +kernel

/-- An IRQ request under a pending NMI is lost. -/
theorem test_irq_under_nmi : ({ ready with irqLine := [true], pending := .nmi } : State).sampleIrq.pending = .nmi := by
  decide +kernel

/-- An instruction at FFFF: its operand byte is read at 0000. -/
theorem test_step_wraps : after (step { ready with
      pc := 0xFFFF, ram := [(0, 0x42)], cart := some { blankCartridge with prg := [(0x3FFF, 0xA9)] } })
    (fun t => t.a == 0x42 && t.pc == 0x0001 && t.cycles == 2) = true := by
  decide +kernel

/-- With the default `RUN_BUDGET` a step ends with the catch-up of its cycles: 2 cycles, 6 ticks, from dot 340 of
line 240 to dot 5 of line 241; vblank began at dot 1. -/
theorem test_step_catches_up : after (step (ready.withFetchWord 8 0xEA))
    (fun t => t.ppu.scanline == 241 && t.ppu.dot == 5 && t.ppu.vblank && t.ppu.frameReady && t.ppu.lastSynced == 2 &&
      t.runStart == none) = true := by
  decide +kernel

/-- The first instruction after reset, placed by withFetchWord. -/
theorem test_withFetchWord : after (step (State.reset.withFetchWord 24 0x92344C))
    (fun t => t.pc == 0x9234 && t.cycles == 3) = true := by
  decide +kernel

/-- A refused state has no further step; a state without a cartridge has none. -/
theorem test_step_stops : step { ready with refused := true } = .refused .alreadyRefused ∧
    step State.reset = .fault .noCartridge := by
  constructor <;> rfl

/-- What a `run` call answers: `cycles_executed`, and a test of the state. -/
def ran (r : Host.Outcome (Nat × State) Fault Refusal) (n : Nat) (f : State → Bool) : Bool :=
  match r with
  | .next (k, t) => k == n && f t
  | _ => false

/-- `run` executes whole instructions: budget 0 still runs one NOP of 2 cycles, budget 3 runs two; each ends with the
catch-up (70_reset R466). -/
theorem test_run : ran (run 0 (program [(0, 0xEA), (1, 0xEA), (2, 0xEA)] [])) 2
      (fun t => t.pc == 0x8001 && t.ppu.lastSynced == 2) = true ∧
    ran (run 3 (program [(0, 0xEA), (1, 0xEA), (2, 0xEA)] [])) 4
      (fun t => t.pc == 0x8002 && t.ppu.lastSynced == 4) = true := by
  decide +kernel

/-- A refused state: `run` makes its closing catch-up and nothing else, `run_frame` one such run (70_reset R466, R470;
93 row 23). Six ticks are owed: from (240, 340) to (241, 5). -/
theorem test_run_refused : ran (run 5 { ready with refused := true, cycles := 2 }) 0
      (fun t => t.pc == 0x8000 && t.refused && t.ppu.lastSynced == 2 && t.ppu.scanline == 241 && t.ppu.dot == 5) =
        true ∧
    after (runFrame { ready with refused := true, cycles := 2, ppu := { Ppu.reset with frameReady := true } })
      (fun t => t.refused && t.ppu.frameReady && t.ppu.dot == 5) = true := by
  decide +kernel

/-- `run_frame` after reset: the first instruction's catch-up replays (241, 1), so one NOP ends it (70_reset R470). -/
theorem test_run_frame : after (runFrame (ready.withFetchWord 8 0xEA))
    (fun t => t.cycles == 2 && t.ppu.frameReady && t.ppu.delivered == [[]]) = true := by
  decide +kernel

/-- No host operation inside an open call (70_reset R463). -/
theorem test_reentrant : run 1 { ready with runStart := some 0 } = .refused .reentrantCall ∧
    State.resetOp { ready with runStart := some 0 } = .refused .reentrantCall := by
  constructor <;> rfl

/-- Reset: PC from FFFC/FFFD, whatever stood before (95 2.15). -/
theorem test_reset : after (State.resetOp { ready with
      a := 5, p := 0xFF, refused := true, cart := some { blankCartridge with prg := [(0x3FFD, 0xC0)] } })
    (fun t => regs t == (0, 0, 0, 0xFD, 0x24, 0xC000, 0) && !t.refused && t.ppu.scanline == 240) = true := by
  decide +kernel

/-- The end of a program: a jump to itself. -/
theorem test_program_end : (program [(0, 0x4C), (2, 0x80)] []).atProgramEnd 0x8000 = true ∧
    (program [(0, 0x4C), (1, 3), (2, 0x80)] []).atProgramEnd 0x8000 = false := by
  decide +kernel

/-! ### The bus and the devices (95 2.9–2.14) -/

theorem test_ram_mirror : ({ ready with ram := [(0, 0x5A)] } : State).read 0x1800 =
    (0x5A, { ready with ram := [(0, 0x5A)] }) := by
  decide +kernel

theorem test_unmapped : (ready.read 0x4015).1 = 0 ∧ (ready.read 0x4020).1 = 0 ∧ (ready.read 0x6000).1 = 0 ∧
    ready.write 0x8000 0x99 = ready ∧ ready.write 0x4017 1 = ready := by
  decide +kernel

/-- DMA at an odd cycle with the cursor at 10. -/
theorem test_dma : (({ ready with
      cycles := 1, ram := [(0x200, 7), (0x2FF, 9)]
      ppu := { Ppu.reset with lastSynced := 1, oamAddr := 0x10 } } : State).write 0x4014 2).ppu.oam =
        [(0x0F, 9), (0x10, 7)] ∧
    (({ ready with cycles := 1 } : State).write 0x4014 2).stall = 514 := by
  decide +kernel

/-- Strobe and latch: INPUT answers 0205. -/
theorem test_controller : Claims.portReads 0x4016 10
      ((({ ready with inputs := [0x0205] } : State).write 0x4016 1).write 0x4016 0) = [1, 0, 1, 0, 0, 0, 0, 0, 1, 1] ∧
    Claims.portReads 0x4017 3
      ((({ ready with inputs := [0x0205] } : State).write 0x4016 1).write 0x4016 0) = [0, 1, 0] := by
  decide +kernel

/-- The strobe held high: the first bit again and again. -/
theorem test_controller_held : Claims.portReads 0x4016 3
    { ready with pad := ⟨true, 0x0001, 0, 0⟩ } = [1, 1, 1] := by
  decide +kernel

/-- A register write, on a PPU with vertical mirroring. -/
def poke (p : Ppu) (r : BitVec 3) (d : Byte) : Ppu :=
  (p.writeReg (some { blankCartridge with mirroring := .vertical }) ready.params r d).1

/-- A register read. -/
def peek (p : Ppu) (r : BitVec 3) : Byte × Ppu :=
  p.readReg (some { blankCartridge with mirroring := .vertical }) ready.params r

theorem test_scroll : (poke Ppu.reset 5 0x7D).t = 0x000F ∧ (poke Ppu.reset 5 0x7D).fineX = 5 ∧
    (poke (poke Ppu.reset 5 0x7D) 5 0x5E).t = 0x616F ∧ (poke (poke Ppu.reset 5 0x7D) 5 0x5E).w = false := by
  decide +kernel

theorem test_address : (poke Ppu.reset 6 0xFF).t = 0x3F00 ∧ (poke (poke Ppu.reset 6 0x21) 6 0x05).v = 0x2105 ∧
    (poke Ppu.reset 0 0x03).t = 0x0C00 := by
  decide +kernel

theorem test_status : (peek { Ppu.reset with latch := 0x9F, vblank := true, w := true } 2).1 = 0x9F ∧
    (peek { Ppu.reset with latch := 0x9F, vblank := true, w := true } 2).2.vblank = false := by
  decide +kernel

/-- The buffered read, then the direct one of the palette. -/
theorem test_data_read : (peek (peek { Ppu.reset with ciram := [(0x3FF, 0xAB)], v := 0x23FF } 7).2 7).1 = 0xAB ∧
    (peek { Ppu.reset with palette := [(0, 0x0F)], readBuffer := 0x77, v := 0x3F00 } 7).1 = 0x0F ∧
    (peek { Ppu.reset with palette := [(0, 0x0F)], readBuffer := 0x77, v := 0x3F00 } 7).2.readBuffer = 0 := by
  decide +kernel

/-- `v` wraps mod 8000; 3F10 is palette entry 0. -/
theorem test_data_write : (poke { Ppu.reset with v := 0x7FFF } 7 0x11).v = 0 ∧
    (poke { Ppu.reset with v := 0x7FFF } 7 0x11).palette = [(0x1F, 0x11)] ∧
    (poke { Ppu.reset with v := 0x3F10 } 7 0x2A).palette = [(0, 0x2A)] := by
  decide +kernel

theorem test_increments : incrementX 0x001F = 0x0400 ∧ incrementX 0x041F = 0 ∧ incrementY 0x73A0 = 0x0800 ∧
    incrementY 0x73E0 = 0 ∧ incrementY 0x73C0 = 0x03E0 ∧ copyX 0 0x7FFF = 0x041F ∧ copyY 0 0x7FFF = 0x7BE0 := by
  decide +kernel

theorem test_fetch_addresses : ({ Ppu.reset with v := 0x0C5F } : Ppu).atAddr = 0x2FC7 ∧
    ({ Ppu.reset with v := 0x0C5F } : Ppu).atShift = 6 ∧
    ({ Ppu.reset with ctrl := 0x10, ntByte := 0x41, v := 0x3000 } : Ppu).bgPatternAddr = 0x1413 ∧
    ({ Ppu.reset with ptLo := 0x80, ptHi := 0x80, atBits := 4 } : Ppu).foldTile.tileData = 0x74444444 := by
  decide +kernel

/-- A PPU in vblank whose `$2000` was just written 80: one edge, NMI_DELAY_TICKS = 15. -/
def edged : Ppu := poke { Ppu.reset with scanline := 241, dot := 1, vblank := true } 0 0x80

/-- The NMI is pending after 15 ticks and not before; a `$2002` read in between suppresses it. -/
theorem test_nmi : (Ppu.ticks none ready.params 14 (edged, .none)).2 = .none ∧
    (Ppu.ticks none ready.params 15 (edged, .irq)).2 = .nmi ∧
    (Ppu.ticks none ready.params 15 ((peek edged 2).2, .none)).2 = .none ∧ (poke edged 0 0x80).nmiDelay = 15 := by
  decide +kernel

/-- Nine sprites with Y = 10 on line 10: overflow, eight kept. -/
def nineSprites : Ppu :=
  { Ppu.reset with
    scanline := 0x10, mask := 0x1E
    oam := Mem.ofCells 256 ((List.range 64).map fun n => (4 * n, if n < 9 then 0x10 else 0xFF)) }

theorem test_overflow : (nineSprites.evaluateSprites none ready.params).sprCount = 8 ∧
    (nineSprites.evaluateSprites none ready.params).spriteOverflow = true := by
  decide +kernel

/-- Sprite 0, opaque and behind an opaque background, at column 254 and at column 255. -/
def sprite0At (x : Byte) : Ppu :=
  { Ppu.reset with
    mask := 0x1E, tileData := 0x1000000000000000, sprCount := 1
    slots := Ppu.reset.slots.set 0 { pattern := 0x20000000, x := x, priority := true, index := 0 } }

/-- The background colour shows, and the hit is set at 254 but not at 255. -/
theorem test_sprite0 : (sprite0At 0xFE).pixelColor 254 = 1 ∧ (sprite0At 0xFE).spriteZeroHits 254 = true ∧
    (sprite0At 0xFF).spriteZeroHits 255 = false := by
  decide +kernel

/-- An image of `n` bytes after a header with these PRG and CHR counts and flag bytes. -/
def image (prg chr f6 f7 : Byte) (n : Nat) : List Byte :=
  [0x4E, 0x45, 0x53, 0x1A, prg, chr, f6, f7, 0, 0, 0, 0, 0, 0, 0, 0] ++ List.replicate n 0

/-- What a load answers. -/
def loads (i : Option (List Byte)) : Option RomError :=
  match ready.loadImage i with
  | .next r => r.1
  | _ => none

theorem test_load_errors : loads none = some .illegalPointer ∧ loads (some (List.replicate 15 0)) = some .illegalSize ∧
    loads (some [0x4E, 0x45, 0x53, 0x1B, 0, 0, 0, 0, 0, 0, 0, 0, 0, 0, 0, 0]) = some .invalidSignature ∧
    loads (some (image 1 0 0x10 0 0)) = some .unsupportedMapper ∧ loads (some (image 3 0 0 0 0)) = some .illegalSize ∧
    loads (some (image 1 1 4 0 0)) = some .incompleteImage := by
  decide +kernel

/-- Four-screen wins over vertical; the trainer is skipped; a low nibble of flags7 is ignored. -/
theorem test_load_flags : imageMirroring 0x0B = .fourScreen ∧ imageMirroring 0x01 = .vertical ∧
    imagePrgStart (image 1 1 4 0 0) = 528 ∧ imageMapper (image 1 0 0 0x0F 0) = 0 := by
  decide +kernel

/-! ### Witnesses: a concrete input that meets the hypotheses of each statement, clause by clause -/

/-- DecodeOfEncode: one term of each constructor that has a condition, and one of the rest. -/
theorem witness_DecodeOfEncode : (Instr.kil 0xF2).wellFormed = true ∧ (Instr.anc 0x2B 0xFF).wellFormed = true ∧
    (Instr.nopU 0xFC (.word 0xFFFF)).wellFormed = true ∧ (Instr.jmp (.ind 0xFFFF)).wellFormed = true := by
  decide

/-- EncodeOfDecode: an instruction other than BRK; BRK at the end of the bytes; BRK with its padding byte. -/
theorem witness_EncodeOfDecode : decode [0xAD, 0xFF, 0xFF, 0x00] = .ok (.lda (.abs 0xFFFF), [0x00]) ∧
    Instr.lda (.abs 0xFFFF) ≠ .brk ∧ decode [0x00] = .ok (.brk, []) ∧ decode [0x00, 0xEE, 1] = .ok (.brk, [1]) := by
  decide +kernel

/-- EveryOpcodeHasAnEntry and DescriptorBonusColumns: a documented and an undocumented opcode. -/
theorem witness_DescriptorBonusColumns : (desc 0xBD).documented = true ∧ (desc 0xF0).documented = true ∧
    (desc 0xDE).documented = true ∧ (desc 0xFF).documented = false := by
  decide +kernel

/-- PointerReadStaysInPage: before the page end; at the page end; the last RAM address. -/
theorem witness_PointerReadStaysInPage : (0x02FE : Word) &&& 0x00FF ≠ 0x00FF ∧
    (0x02FF : Word) &&& 0x00FF = 0x00FF ∧ (0x1FFF : Word).toNat < 0x2000 := by
  decide

/-- UndocumentedRefused: any undocumented opcode under `Refuse`; KIL under `StubNop`. -/
theorem witness_UndocumentedRefused : Claims.undocumented (.sax (.zp 1)) = true ∧
    ready.params.illegalMode = .refuse ∧ Claims.undocumented (.kil 0x02) = true ∧
    stubbing.params.illegalMode = .stubNop ∧ ∃ op, Instr.kil 0x02 = .kil op :=
  ⟨rfl, rfl, rfl, rfl, _, rfl⟩

/-- UndocumentedStubbed: the policy, and the terms with a condition. -/
theorem witness_UndocumentedStubbed : stubbing.params.illegalMode = .stubNop ∧
    (Instr.anc 0x0B 1).wellFormed = true ∧ (Instr.nopU 0xDA .none).wellFormed = true ∧
    (Instr.nopU 0xE2 (.byte 1)).wellFormed = true ∧ (Instr.nopU 0x5C (.word 1)).wellFormed = true :=
  ⟨rfl, rfl, rfl, rfl, rfl⟩

/-- RegisterFrame: an instruction that writes no register and is documented, from a state with both marks set. -/
theorem witness_RegisterFrame :
    (∃ t, exec .nop { ready with refused := true, stubbed := true } = .next t) ∧
    Claims.writesA .nop = false ∧ Claims.writesX .nop = false ∧ Claims.writesY .nop = false ∧
    Claims.writesSP .nop = false ∧ Claims.undocumented .nop = false :=
  ⟨⟨_, rfl⟩, rfl, rfl, rfl, rfl, rfl⟩

/-- FlagFrame: an instruction that may write two flags, one that may write all, one that may write none. -/
theorem witness_FlagFrame : (∃ t, exec .inx ready = .next t) ∧ Claims.flagsWritten .inx = 0x82 ∧
    (∃ t, exec .plp ready = .next t) ∧ Claims.flagsWritten .plp = 0xFF ∧
    (∃ t, exec (.sta (.abs 0)) ready = .next t) ∧ Claims.flagsWritten (.sta (.abs 0)) = 0 :=
  ⟨⟨_, rfl⟩, rfl, ⟨_, rfl⟩, rfl, ⟨_, rfl⟩, rfl⟩

/-- MemoryFrame: a store to the first RAM cell and the last address of RAM, which is another cell; and an
instruction that stores nothing. -/
theorem witness_MemoryFrame : (∃ t, exec (.sta (.abs 0)) ready = .next t) ∧
    Claims.stored (.sta (.abs 0)) ready = [0x0000] ∧ (0x1FFF : Word).toNat % 0x800 ≠ (0 : Word).toNat % 0x800 ∧
    Claims.stored (.lda (.zp 0)) ready = [] ∧ Claims.stored .brk ready = [0x01FD, 0x01FC, 0x01FB] := by
  refine ⟨⟨_, rfl⟩, ?_⟩
  decide +kernel

/-- DeviceFrame: addresses on both sides of the device windows. -/
theorem witness_DeviceFrame : (∃ t, exec (.inc (.abs 0x1FFF)) ready = .next t) ∧
    Claims.accessed (.inc (.abs 0x1FFF)) ready = [0x1FFF] ∧ ¬ Claims.outside 0x1FFF ∧ ¬ Claims.outside 0x6000 ∧
    Claims.outside 0x2000 ∧ Claims.outside 0x5FFF ∧ Claims.stored (.lda (.abs 0x2002)) ready = [] := by
  refine ⟨⟨_, rfl⟩, by decide +kernel, ?_, ?_, ?_, ?_, by decide +kernel⟩ <;> unfold Claims.outside <;> decide

/-- StepRunsDecodedInstruction: LDA absolute at 8000. -/
theorem witness_StepRunsDecodedInstruction (s u : State)
    (hs : s = program [(0, 0xAD), (1, 0x34), (2, 0x12)] []) (hu : u = s.openRun.beforeFetch) :
    s.refused = false ∧ (∃ c, s.cart = some c) ∧ u.pc = 0x8000 ∧ ¬ Claims.outside 0x8000 ∧
    ¬ Claims.outside 0x8002 ∧ decode [u.memByte 0x8000, u.memByte 0x8001, u.memByte 0x8002] =
      .ok (.lda (.abs 0x1234), []) := by
  subst hs
  subst hu
  refine ⟨rfl, ⟨_, rfl⟩, by decide +kernel, ?_, ?_, by decide +kernel⟩ <;> unfold Claims.outside <;> decide

/-- FetchReadsThroughTheBus: an opcode of each number of operand bytes; a refused one; stubs of each number. -/
theorem witness_FetchReadsThroughTheBus :
    ((program [(0, 0xEA)] []).read 0x8000).1 = 0xEA ∧ Claims.operandBytesRead ready.params 0xEA = 0 ∧
    Claims.operandBytesRead ready.params 0xA9 = 1 ∧ Claims.operandBytesRead ready.params 0xAD = 2 ∧
    Claims.operandBytesRead ready.params 0x0F = 0 ∧ Claims.operandBytesRead stubbing.params 0x02 = 0 ∧
    Claims.operandBytesRead stubbing.params 0x1A = 0 ∧ Claims.operandBytesRead stubbing.params 0x03 = 1 ∧
    Claims.operandBytesRead stubbing.params 0x0F = 2 ∧ (desc 0xFE).documented = true := by
  decide +kernel

/-- The undocumented NOP abs at 1FFF: a stub's fetch reads its operand bytes through the bus, at the PPU registers 2000
and 2001, with their catch-up; under `Refuse` they are not read (47_undocumented R310, R311). -/
theorem test_fetch_undocumented :
    ({ stubbing with pc := 0x1FFF, cycles := 2, ram := [(0x7FF, 0x0C)] } : State).fetch.1 = .nopU 0x0C (.word 0) ∧
    ({ stubbing with pc := 0x1FFF, cycles := 2, ram := [(0x7FF, 0x0C)] } : State).fetch.2.ppu.lastSynced = 2 ∧
    ({ ready with pc := 0x1FFF, cycles := 2, ram := [(0x7FF, 0x0C)] } : State).fetch.2 =
      { ready with pc := 0x1FFF, cycles := 2, ram := [(0x7FF, 0x0C)] } := by
  decide +kernel

/-- StepStopsOnlyWhereNoStepExists: a refused state; one without a cartridge; one that steps; a refused one with a
cartridge and no open call; one with a call open. -/
theorem witness_StepStopsOnlyWhereNoStepExists : ({ ready with refused := true } : State).refused = true ∧
    State.reset.refused = false ∧ State.reset.cart = none ∧ State.reset.runStart = none ∧ ready.refused = false ∧
    ready.cart ≠ none ∧ ({ ready with refused := true } : State).runStart = none ∧
    ({ ready with runStart := some 0 } : State).runStart ≠ none :=
  ⟨rfl, rfl, rfl, rfl, rfl, Option.some_ne_none _, rfl, Option.some_ne_none _⟩

/-- InterruptDecision: each of its three outcomes is reached. -/
theorem witness_InterruptDecision :
    ({ ready with pending := .nmi } : State).pending = .nmi ∧
    ({ ready with p := 0x20, irqLine := [true] } : State).irqLine.head? = some true ∧
    ({ ready with p := 0x20, irqLine := [true] } : State).p &&& 0x04 = 0 ∧ ready.pending = .none ∧
    ready.irqLine.head? ≠ some true := by
  decide +kernel

/-- EveryStepEndsItsRun, StepKeepsRom: a step from between two `run` calls under the default budget. -/
theorem witness_EveryStepEndsItsRun : (∃ t, step ready = .next t) ∧ ready.params.runBudget ≤ 1 ∧
    ready.runStart = none ∧ (after (step ready) fun t => !t.refused) = true := by
  refine ⟨⟨_, rfl⟩, by decide, rfl, by decide +kernel⟩

/-- The cartridge of `ready` with its CHR as ROM. -/
theorem witness_StepKeepsRom : ∃ s : State, s.cart = some { blankCartridge with chrIsRam := false } ∧
    ∃ t, step s = .next t :=
  ⟨{ ready with cart := some { blankCartridge with chrIsRam := false } }, rfl, _, rfl⟩

/-- StepKeepsInv: `ready` meets the invariant and steps. -/
theorem witness_StepKeepsInv : ready.Inv ∧ ∃ t, step ready = .next t :=
  ⟨{ u := rfl
     b := rfl
     ram := Mem.good_nil _
     ppu := Ppu.reset_inv _
     cart := by
       intro c h
       cases h
       exact { prg := by decide, chr := Mem.good_nil _ }
     synced := Nat.le_refl _ }, _, rfl⟩

/-- RamReadAfterWrite: both ends of RAM, and two addresses of one cell. -/
theorem witness_RamReadAfterWrite : (0x0000 : Word).toNat < 0x2000 ∧ (0x1FFF : Word).toNat < 0x2000 ∧
    (0x0800 : Word).toNat % 0x800 = (0x0000 : Word).toNat % 0x800 := by
  decide

/-- UnmappedAndCartridgeSpace: the ends of every range. -/
theorem witness_UnmappedAndCartridgeSpace :
    (0x4000 ≤ (0x4000 : Word).toNat ∧ (0x4000 : Word) ≠ 0x4014 ∧ (0x4000 : Word) ≠ 0x4016) ∧
    ((0x5FFF : Word).toNat < 0x6000 ∧ (0x5FFF : Word) ≠ 0x4016 ∧ (0x5FFF : Word) ≠ 0x4017) ∧
    0x6000 ≤ (0x6000 : Word).toNat ∧ (0x7FFF : Word).toNat < 0x8000 ∧ 0x8000 ≤ (0x8000 : Word).toNat ∧
    ready.cart.isSome = true := by
  decide

/-- PpuWindow, and the range of every register statement: both ends. -/
theorem witness_PpuWindow : 0x2000 ≤ (0x2000 : Word).toNat ∧ (0x2000 : Word).toNat % 8 = 0 ∧
    (0x3FFF : Word).toNat < 0x4000 ∧ (0x3FFF : Word).toNat % 8 = 7 := by
  decide

/-- OamDma: the last page of RAM and the first of cartridge space are memory. -/
theorem witness_OamDma : ¬ Claims.outside (mkWord 0x1F 0) ∧ ¬ Claims.outside (mkWord 0x60 0) := by
  unfold Claims.outside
  decide

/-- ControllerPorts: each case of the strobe write, with the strobe high and low. -/
theorem witness_ControllerPorts : (0x01 : Byte) &&& 0x01 = 1 ∧ (0xFE : Byte) &&& 0x01 = 0 ∧
    ready.pad.strobe = false ∧ ({ ready with pad := ⟨true, 0, 0, 0⟩ } : State).pad.strobe = true := by
  decide

/-- RegisterReads, RegisterWrites: an address of each register, each with the write toggle at 0 and at 1. -/
theorem witness_RegisterWrites :
    (∀ k : Fin 8, (BitVec.ofNat 16 (0x3FF8 + k.val)).toNat % 8 = k.val ∧
      0x2000 ≤ (BitVec.ofNat 16 (0x3FF8 + k.val)).toNat ∧ (BitVec.ofNat 16 (0x3FF8 + k.val)).toNat < 0x4000) ∧
    ready.catchUp.ppu.w = false ∧
    ({ ready with ppu := { Ppu.reset with w := true } } : State).catchUp.ppu.w = true := by
  decide +kernel

/-- DataPort: the last address below the palette and the first of the palette. -/
theorem witness_DataPort :
    (BitVec.ofNat 14 (({ ready with ppu := { Ppu.reset with v := 0x3EFF } } : State).catchUp.ppu.v.toNat)).toNat <
      0x3F00 ∧
    0x3F00 ≤
      (BitVec.ofNat 14 (({ ready with ppu := { Ppu.reset with v := 0x3F00 } } : State).catchUp.ppu.v.toNat)).toNat ∧
    (0x2007 : Word).toNat % 8 = 7 := by
  decide +kernel

/-- AddressPairSetsV: three mirrors. -/
theorem witness_AddressPairSetsV : (0x2002 : Word).toNat % 8 = 2 ∧ (0x3FFE : Word).toNat % 8 = 6 ∧
    (0x2006 : Word).toNat % 8 = 6 ∧ (0x3FFE : Word).toNat < 0x4000 ∧ 0x2000 ≤ (0x2002 : Word).toNat := by
  decide

/-- PpuBusReadAfterWrite: the ends of the three ranges, for an address written and one read. -/
theorem witness_PpuBusReadAfterWrite :
    (Ppu.busWrite (some blankCartridge) ready.params Ppu.reset 0x1FFF 1).1 = Ppu.reset ∧
    (0x1FFF : BitVec 14).toNat < 0x2000 ∧ 0x2000 ≤ (0x2000 : BitVec 14).toNat ∧
    (0x3EFF : BitVec 14).toNat < 0x3F00 ∧ 0x3F00 ≤ (0x3F00 : BitVec 14).toNat ∧
    0x3F00 ≤ (0x3FFF : BitVec 14).toNat := by
  decide +kernel

/-- NmiArrivesAfterItsDelay: the edge of `edged`, with its 15 ticks left and the line high at each. -/
theorem witness_NmiArrivesAfterItsDelay : edged.nmiDelay = 14 + 1 ∧ edged.nmiPrevious = edged.nmiLine ∧
    (∀ k ≤ 14, ((Ppu.tick none ready.params)^[k] (edged, .none)).1.nmiLine = true) ∧
    Ppu.reset.nmiDelay ≠ 1 ∧ ({ edged with ctrl := 0 } : Ppu).nmiLine = false := by
  refine ⟨by decide +kernel, by decide +kernel, ?_, by decide, by decide +kernel⟩
  intro k hk
  interval_cases k <;> decide +kernel

/-- FrameLength: anywhere with rendering off; the top of an odd and of an even frame with rendering on. -/
theorem witness_FrameLength : Ppu.reset.dot ≤ 340 ∧ Ppu.reset.scanline ≤ 261 ∧
    Ppu.reset.renderingEnabled = false ∧
    ({ Ppu.reset with mask := 0x08, scanline := 0, dot := 0, odd := true } : Ppu).renderingEnabled = true ∧
    Claims.position { Ppu.reset with mask := 0x10, scanline := 0, dot := 0 } = 0 := by
  decide

/-- The edge at (241, 1) with NMI enabled schedules NMI_DELAY_TICKS = 15; at (261, 1) the line drops (51_ppu R384, R385;
60_exceptions R435). -/
theorem test_vblank_edge :
    (Ppu.tick none ready.params ({ Ppu.reset with scanline := 241, dot := 0, ctrl := 0x80 }, .none)).1.nmiDelay = 15 ∧
    (Ppu.tick none ready.params ({ Ppu.reset with scanline := 241, dot := 0, ctrl := 0x80 }, .none)).1.nmiPrevious =
      true ∧
    (Ppu.tick none ready.params ({ edged with scanline := 261, dot := 0 }, .none)).1.nmiPrevious = false := by
  decide +kernel

/-- VblankWindow: a tick that ends at (241, 1), one that ends at (261, 1), and one that ends at neither; bit 7 of
`$2000` set with the line low before. -/
theorem witness_VblankWindow :
    (Ppu.tick none ready.params ({ Ppu.reset with scanline := 241, dot := 0 }, .none)).1.dot = 1 ∧
    (Ppu.tick none ready.params ({ Ppu.reset with scanline := 241, dot := 0 }, .none)).1.scanline = 241 ∧
    (Ppu.tick none ready.params ({ Ppu.reset with scanline := 261, dot := 0 }, .none)).1.dot = 1 ∧
    (Ppu.tick none ready.params ({ Ppu.reset with scanline := 261, dot := 0 }, .none)).1.scanline = 261 ∧
    (Ppu.tick none ready.params (Ppu.reset, .none)).1.dot = 0 ∧
    ({ Ppu.reset with ctrl := 0x80 } : Ppu).ctrl &&& 0x80 ≠ 0 ∧ Ppu.reset.nmiPrevious = false := by
  decide +kernel

/-- Where a tick from this position ends. -/
def tickFrom (scanline dot : Nat) (p : Ppu) : Nat × Nat :=
  let q := (Ppu.tick none ready.params ({ p with scanline := scanline, dot := dot }, .none)).1
  (q.scanline, q.dot)

/-- SpriteEvaluation: the eighth sprite kept, of nine on the line; ticks with rendering on that end at dot 257 of the
last visible line and of the first other one, and one that ends at another dot. -/
theorem witness_SpriteEvaluation : (Claims.lineSprites nineSprites)[7]? = some 7 ∧
    (Claims.lineSprites nineSprites).length = 9 ∧ Claims.rendering nineSprites = true ∧
    tickFrom 239 256 nineSprites = (239, 257) ∧ tickFrom 240 256 nineSprites = (240, 257) ∧
    tickFrom 239 257 nineSprites = (239, 258) ∧ Claims.rendering Ppu.reset = false := by
  decide +kernel

/-- A sprite with both flips, from CHR whose tile 2 has 80 in its last row: the flip makes it the first row, and its
pixel the last (51_ppu R376); in 8x16 the same tile's flipped row 0 is row 7 of the tile after it. -/
theorem test_sprite_flips :
    (Ppu.spritePattern (some { blankCartridge with chr := [(0x27, 0x80), (0x37, 0x01)] }) ready.params
      { Ppu.reset with oam := [(1, 2), (2, 0xC3)] } 0 0) = 0xCCCCCCCD ∧
    (Ppu.spritePattern (some { blankCartridge with chr := [(0x27, 0x80), (0x37, 0x01)] }) ready.params
      { Ppu.reset with ctrl := 0x20, oam := [(1, 2), (2, 0xC3)] } 0 0) = 0xDCCCCCCC := by
  decide +kernel

/-- A tick's fetch and scroll: at dot 256 of line 0 both increments are made; at dot 257 coarse X and the horizontal
nametable are reloaded; with rendering off nothing is (51_ppu R361, R365). -/
theorem test_tick_scroll :
    (Ppu.tick none ready.params ({ nineSprites with scanline := 0, dot := 255 }, .none)).1.v = 0x1001 ∧
    (Ppu.tick none ready.params ({ nineSprites with scanline := 0, dot := 256, t := 0x7FFF }, .none)).1.v = 0x041F ∧
    (Ppu.tick none ready.params ({ Ppu.reset with scanline := 0, dot := 255 }, .none)).1.v = 0 := by
  decide +kernel

/-- BackgroundFold, ScrollFields: ticks with rendering on that end at a fetch dot of each residue at the ends of the two
ranges, on the first and the last render line, at the two dots after them, and on a line that is none. -/
theorem witness_BackgroundFold : Claims.rendering nineSprites = true ∧
    tickFrom 0 0 nineSprites = (0, 1) ∧ tickFrom 239 2 nineSprites = (239, 3) ∧
    tickFrom 261 4 nineSprites = (261, 5) ∧ tickFrom 261 6 nineSprites = (261, 7) ∧
    tickFrom 0 255 nineSprites = (0, 256) ∧ tickFrom 0 256 nineSprites = (0, 257) ∧
    tickFrom 261 279 nineSprites = (261, 280) ∧ tickFrom 261 303 nineSprites = (261, 304) ∧
    tickFrom 0 320 nineSprites = (0, 321) ∧ tickFrom 0 335 nineSprites = (0, 336) ∧
    tickFrom 0 336 nineSprites = (0, 337) ∧ tickFrom 240 0 nineSprites = (240, 1) ∧
    Claims.renderLine { Ppu.reset with scanline := 261 } = true ∧ Claims.renderLine Ppu.reset = false ∧
    Claims.fetchDot { Ppu.reset with dot := 256 } = true ∧ Claims.fetchDot { Ppu.reset with dot := 257 } = false ∧
    Claims.fetchDot { Ppu.reset with dot := 321 } = true ∧ Claims.fetchDot { Ppu.reset with dot := 337 } = false := by
  decide +kernel

/-- A tick that ends at dot 256 of line 239 writes the last cell of the frame buffer (51_ppu R382). -/
theorem test_tick_pixel : (Ppu.tick none ready.params
    ({ sprite0At 0 with scanline := 239, dot := 255, palette := [(1, 0xFF)] }, .none)).1.frame = [(61439, 0x3F)] := by
  decide +kernel

/-- PixelComposition: a column with a sprite pixel, a column without one, and masked columns; an opaque background; the
first and last visible dots, and dots and lines past them. -/
theorem witness_PixelComposition : ((sprite0At 0xFE).spritePixel 254).isSome = true ∧
    (sprite0At 0xFE).spritePixel 253 = none ∧ ({ sprite0At 0 with mask := 0x18 } : Ppu).mask &&& 0x02 = 0 ∧
    ({ sprite0At 0 with mask := 0x10 } : Ppu).mask &&& 0x08 = 0 ∧ (Ppu.reset.backgroundPixel 0).toNat % 4 = 0 ∧
    Ppu.reset.spritePixel 0 = none ∧ ((sprite0At 0xFE).backgroundPixel 253).toNat % 4 ≠ 0 ∧
    (sprite0At 0).mask &&& 0x08 ≠ 0 ∧ (sprite0At 0).mask &&& 0x02 ≠ 0 ∧ Claims.rendering (sprite0At 0) = true ∧
    tickFrom 0 0 (sprite0At 0) = (0, 1) ∧ tickFrom 239 255 (sprite0At 0) = (239, 256) ∧
    tickFrom 239 256 (sprite0At 0) = (239, 257) ∧ tickFrom 240 0 (sprite0At 0) = (240, 1) := by
  decide +kernel

theorem image_length (prg chr f6 f7 : Byte) (n : Nat) : (image prg chr f6 f7 n).length = 16 + n := by
  rw [image, List.length_append, List.length_replicate]
  rfl

/-- RomLoad: an image for each answer, the last one loading with its CHR RAM. -/
theorem witness_RomLoad :
    ¬ 16 ≤ (List.replicate 15 (0 : Byte)).length ∧
    ([0x4E, 0x45, 0x53, 0x1B] : List Byte) ≠ [0x4E, 0x45, 0x53, 0x1A] ∧
    (image 1 0 0x10 0 0).take 4 = [0x4E, 0x45, 0x53, 0x1A] ∧ 16 ≤ (image 1 0 0x10 0 0).length ∧
    ¬ ((0x10 : Byte) &&& 0xF0 = 0) ∧ ¬ Claims.bankCount 3 ∧ Claims.bankCount 1 ∧ Claims.bankCount 128 ∧
    ¬ 16 + 16384 * 1 + 8192 * 0 ≤ (image 1 0 0 0 16383).length ∧
    16 + 16384 * 1 + 8192 * 0 ≤ (image 1 0 0 0 16384).length := by
  refine ⟨by decide, by decide, by decide, by decide, by decide, ?_, ⟨0, rfl⟩, ⟨7, rfl⟩,
    by rw [image_length]; omega, by rw [image_length]⟩
  rintro ⟨k, hk⟩
  rcases k with _ | _ | k
  · omega
  · omega
  · rw [pow_add] at hk
    omega

/-- RomLoad: an image that passes every check, and a state with no open call. -/
theorem witness_RomLoad_loads : ready.runStart = none ∧ 16 ≤ (image 1 0 0 0 16384).length ∧
    (image 1 0 0 0 16384).take 4 = [0x4E, 0x45, 0x53, 0x1A] ∧ (image 1 0 0 0 16384).getD 4 0 = 1 ∧
    (image 1 0 0 0 16384).getD 5 0 = 0 ∧ (image 1 0 0 0 16384).getD 6 0 = 0 ∧
    (image 1 0 0 0 16384).getD 7 0 = 0 := by
  refine ⟨rfl, by rw [image_length]; omega, rfl, rfl, rfl, rfl, rfl⟩

/-- ResetOperation: a state with a cartridge that meets its invariant, at a position on the grid. -/
theorem witness_ResetOperation : ready.cart.isSome = true ∧ ready.runStart = none ∧ blankCartridge.Inv ∧
    ready.params.resetDot ≤ 340 ∧ ready.params.resetScanline ≤ 261 :=
  ⟨rfl, rfl, { prg := Mem.good_nil _, chr := Mem.good_nil _ }, by decide, by decide⟩

/-- InterruptEntry: both vectors, and a state that takes each. -/
theorem witness_InterruptEntry : nmiVector = 0xFFFA ∧ irqVector = 0xFFFE ∧ ready.refused = false ∧
    ready.cart ≠ none ∧ ready.stall = 0 ∧ ready.irqLine = [] ∧
    ({ ready with pending := .nmi } : State).pending = .nmi ∧
    ({ ready with pending := .irq, p := 0x20 } : State).p &&& 0x04 = 0 := by
  refine ⟨rfl, rfl, rfl, Option.some_ne_none _, rfl, rfl, rfl, by decide⟩

/-- The family of Laws/PerInstr.lean: its hypothesis is met. -/
theorem witness_EncodeLength : Laws.EncodeLength.Statement (.kil 0x02) ∧ (Instr.kil 0x02).wellFormed = true :=
  ⟨Laws.EncodeLength.kil 0x02, rfl⟩

end Sys2Proof.Tests
end

/-! ## The CPU bus (20_memory): the rules of one access, and the statements O42–O45 -/

namespace Sys2Proof.Machine

section BusRules

variable (s : State) (addr : Word) (v : Byte)

/-! ### Unmapped addresses and the cartridge's PRG (20_memory R84, R85) -/

/-- A read of an unmapped address. -/
theorem State.read_unmapped (h : 0x4000 ≤ addr.toNat ∧ addr.toNat < 0x6000)
    (h16 : addr ≠ 0x4016) (h17 : addr ≠ 0x4017) : s.read addr = (0x00, s) := by
  have h0 : ¬ addr.toNat < 0x2000 := by omega
  have h1 : ¬ addr.toNat < 0x4000 := by omega
  have h2 : ¬ 0x6000 ≤ addr.toNat := by omega
  unfold State.read
  rw [if_neg h0, if_neg h1, if_neg h16, if_neg h17, if_neg h2]

/-- Below 0x8000 the cartridge holds no PRG. -/
theorem cartReadPrg_low (cart : Option Cartridge) (h : addr.toNat < 0x8000) : cartReadPrg cart addr = 0x00 := by
  cases cart with
  | none => rfl
  | some c => exact if_neg (by omega)

/-- From 0x8000 up PRG is read through its mask. -/
theorem cartReadPrg_high (c : Cartridge) (h : 0x8000 ≤ addr.toNat) :
    cartReadPrg (some c) addr = c.prg.read ((addr.toNat - 0x8000) &&& c.prgMask) :=
  if_pos h

/-! ### The catch-up (51_ppu R360) -/

/-- `n` ticks are the tick iterated. -/
theorem Ppu.ticks_eq_iterate (cart : Option Cartridge) (params : Params) (n : Nat) (q : Ppu × Pending) :
    Ppu.ticks cart params n q = (Ppu.tick cart params)^[n] q := by
  induction n generalizing q with
  | zero => rfl
  | succ n ih => exact ih _

theorem State.replayed_eq_iterate :
    s.replayed = (Ppu.tick s.cart s.params)^[3 * (s.cycles - s.ppu.lastSynced)] (s.ppu, s.pending) := by
  rw [State.replayed, State.ticksOwed, Ppu.ticks_eq_iterate, Nat.mul_comm]

/-- After a catch-up no tick is owed. -/
@[simp] theorem State.ticksOwed_catchUp : s.catchUp.ticksOwed = 0 := by
  simp [State.ticksOwed]

/-- A second catch-up at the same cycle replays nothing. -/
@[simp] theorem State.catchUp_catchUp : s.catchUp.catchUp = s.catchUp := by
  have h : s.catchUp.replayed = (s.catchUp.ppu, s.catchUp.pending) := by
    rw [State.replayed, State.ticksOwed_catchUp]
    rfl
  conv_lhs => rw [State.catchUp, h]
  rfl

/-- No tick moves the OAM cursor. -/
@[simp] theorem State.catchUp_oamAddr : s.catchUp.ppu.oamAddr = s.ppu.oamAddr :=
  (Ppu.ticks_same s.cart s.params s.ticksOwed (s.ppu, s.pending)).oamAddr

/-! ### The PPU register window (20_memory R82) -/

theorem State.read_ppu (h : 0x2000 ≤ addr.toNat ∧ addr.toNat < 0x4000) : s.read addr = s.ppuRead addr := by
  unfold State.read
  rw [if_neg (by omega), if_pos h.2]

theorem State.write_ppu (h : 0x2000 ≤ addr.toNat ∧ addr.toNat < 0x4000) :
    s.write addr v = s.ppuWrite addr v := by
  unfold State.write
  rw [if_neg (by omega), if_pos h.2]

@[simp] theorem State.ppuRead_catchUp : s.catchUp.ppuRead addr = s.ppuRead addr := by
  unfold State.ppuRead
  rw [State.catchUp_catchUp]

@[simp] theorem State.ppuWrite_catchUp : s.catchUp.ppuWrite addr v = s.ppuWrite addr v := by
  unfold State.ppuWrite
  rw [State.catchUp_catchUp]

/-- The first address of the window that names the same register. -/
def windowBase (addr : Word) : Word := BitVec.ofNat 16 (0x2000 + addr.toNat % 8)

theorem windowBase_toNat : (windowBase addr).toNat = 0x2000 + addr.toNat % 8 := by
  rw [windowBase, BitVec.toNat_ofNat]
  omega

theorem windowBase_in_window : 0x2000 ≤ (windowBase addr).toNat ∧ (windowBase addr).toNat < 0x4000 := by
  rw [windowBase_toNat]
  omega

/-- The register number of an address, `addr & 7`, is that of the window's first eight. -/
theorem windowBase_register : (windowBase addr).setWidth 3 = addr.setWidth 3 := by
  apply BitVec.eq_of_toNat_eq
  rw [BitVec.toNat_setWidth, BitVec.toNat_setWidth, windowBase_toNat]
  omega

@[simp] theorem State.ppuRead_windowBase : s.ppuRead (windowBase addr) = s.ppuRead addr := by
  unfold State.ppuRead
  rw [windowBase_register]

@[simp] theorem State.ppuWrite_windowBase : s.ppuWrite (windowBase addr) v = s.ppuWrite addr v := by
  unfold State.ppuWrite
  rw [windowBase_register]

end BusRules

section Registers

variable (cart : Option Cartridge) (params : Params) (p : Ppu) (r : BitVec 3) (d : Byte)

/-- No register read moves the OAM cursor or the mark of the last catch-up. -/
theorem Ppu.readReg_keeps : (p.readReg cart params r).2.oamAddr = p.oamAddr ∧
    (p.readReg cart params r).2.lastSynced = p.lastSynced := by
  unfold Ppu.readReg
  split
  · exact ⟨rfl, rfl⟩
  split
  · exact ⟨rfl, rfl⟩
  split <;> exact ⟨rfl, rfl⟩

/-- A PPU bus write changes neither the latch nor the mark of the last catch-up. -/
theorem Ppu.busWrite_keeps (a : BitVec 14) : (p.busWrite cart params a d).1.latch = p.latch ∧
    (p.busWrite cart params a d).1.lastSynced = p.lastSynced := by
  unfold Ppu.busWrite
  split
  · exact ⟨rfl, rfl⟩
  split <;> exact ⟨rfl, rfl⟩

/-- No register's own effect changes the latch or the mark of the last catch-up. -/
theorem Ppu.writeRegEffect_keeps : (p.writeRegEffect cart params r d).1.latch = p.latch ∧
    (p.writeRegEffect cart params r d).1.lastSynced = p.lastSynced := by
  unfold Ppu.writeRegEffect
  split
  · exact ⟨rfl, rfl⟩
  split
  · exact ⟨rfl, rfl⟩
  split
  · exact ⟨rfl, rfl⟩
  split
  · exact ⟨rfl, rfl⟩
  split
  · unfold Ppu.writeScroll
    split <;> exact ⟨rfl, rfl⟩
  split
  · unfold Ppu.writeAddr
    split <;> exact ⟨rfl, rfl⟩
  split
  · exact Ppu.busWrite_keeps cart params p d _
  · exact ⟨rfl, rfl⟩

/-- A register write loads the latch (50_ppu R321) and leaves the mark of the last catch-up. -/
theorem Ppu.writeReg_keeps : (p.writeReg cart params r d).1.latch = d ∧
    (p.writeReg cart params r d).1.lastSynced = p.lastSynced :=
  Ppu.writeRegEffect_keeps cart params { p with latch := d } r d

end Registers

section Dma

variable (s : State) (addr : Word) (page : Byte)

/-- No bus read moves the OAM cursor. -/
@[simp] theorem State.read_oamAddr : (s.read addr).2.ppu.oamAddr = s.ppu.oamAddr := by
  unfold State.read
  split
  · rfl
  split
  · exact (Ppu.readReg_keeps _ _ _ _).1.trans s.catchUp_oamAddr
  split
  · rfl
  split
  · rfl
  split <;> rfl

/-- One byte of the DMA copy: a bus read, written at the OAM cursor (R100). -/
def State.dmaByte (s : State) (addr : Word) : State :=
  { (s.read addr).2 with ppu := (s.read addr).2.ppu.writeOam (s.read addr).1 }

theorem State.dmaCopy_succ (n : Nat) : State.dmaCopy (n + 1) addr s = State.dmaCopy n (addr + 1) (s.dmaByte addr) :=
  rfl

/-- The last byte of a copy comes after the others. -/
theorem State.dmaCopy_succ_last (n : Nat) :
    State.dmaCopy (n + 1) addr s = (State.dmaCopy n addr s).dmaByte (addr + BitVec.ofNat 16 n) := by
  induction n generalizing addr s with
  | zero => exact congrArg s.dmaByte (BitVec.add_zero addr).symm
  | succ n ih =>
    have hn : addr + 1 + BitVec.ofNat 16 n = addr + BitVec.ofNat 16 (n + 1) := by
      rw [BitVec.add_assoc, BitVec.ofNat_add, BitVec.add_comm (BitVec.ofNat 16 n)]
      rfl
    rw [State.dmaCopy_succ, ih, hn, ← State.dmaCopy_succ]

theorem mkWord_zero_toNat : (mkWord page 0).toNat = 256 * page.toNat :=
  mkWord_toNat page 0

/-- Byte `n` of a page. -/
theorem mkWord_zero_add (n : Nat) (h : n < 256) :
    mkWord page 0 + BitVec.ofNat 16 n = mkWord page (BitVec.ofNat 8 n) := by
  apply BitVec.eq_of_toNat_eq
  rw [BitVec.toNat_add, mkWord_zero_toNat, mkWord_toNat, BitVec.toNat_ofNat, BitVec.toNat_ofNat]
  omega

/-- A copy of a page's first `n` bytes is R100's loop of `n` rounds. -/
theorem State.dmaCopy_eq_foldl (n : Nat) (h : n ≤ 256) : State.dmaCopy n (mkWord page 0) s =
    (List.range n).foldl (fun t i => t.dmaByte (mkWord page (BitVec.ofNat 8 i))) s := by
  induction n with
  | zero => rfl
  | succ n ih =>
    rw [State.dmaCopy_succ_last, ih (by omega), mkWord_zero_add page n (by omega), List.range_succ,
      List.foldl_append]
    rfl

theorem dmaLoop_eq_dmaCopy : Claims.dmaLoop page s = State.dmaCopy 256 (mkWord page 0) s :=
  (State.dmaCopy_eq_foldl s page 256 (Nat.le_refl _)).symm

theorem State.write_dma : s.write 0x4014 page = s.oamDma page := rfl

@[simp] theorem State.dmaCopy_cycles (n : Nat) : (State.dmaCopy n addr s).cycles = s.cycles := by
  rw [State.dmaCopy_shape]

@[simp] theorem State.dmaCopy_stall (n : Nat) : (State.dmaCopy n addr s).stall = s.stall := by
  rw [State.dmaCopy_shape]

/-- A copy changes no byte of memory. -/
@[simp] theorem State.memByte_dmaCopy (n : Nat) (b : Word) :
    (State.dmaCopy n addr s).memByte b = s.memByte b := by
  rw [State.dmaCopy_shape]
  rfl

/-- A copy moves the OAM cursor on by its length. -/
theorem State.dmaCopy_oamAddr (n : Nat) :
    (State.dmaCopy n addr s).ppu.oamAddr = s.ppu.oamAddr + BitVec.ofNat 8 n := by
  induction n with
  | zero => exact (BitVec.add_zero _).symm
  | succ n ih =>
    rw [State.dmaCopy_succ_last]
    show (State.read _ _).2.ppu.oamAddr + 1 = _
    rw [State.read_oamAddr, ih, BitVec.add_assoc, BitVec.ofNat_add]
    rfl

/-- A page of memory lies wholly outside the device windows. -/
theorem page_in_memory (h : ¬ Claims.outside (mkWord page 0)) (k : Byte) :
    (mkWord page k).toNat < 0x2000 ∨ 0x6000 ≤ (mkWord page k).toNat := by
  rw [Claims.outside, mkWord_zero_toNat] at h
  rw [mkWord_toNat]
  omega

/-- Sprite memory after one byte copied from memory. -/
theorem State.dmaByte_oam (h : addr.toNat < 0x2000 ∨ 0x6000 ≤ addr.toNat) :
    (s.dmaByte addr).ppu.oam = s.ppu.oam.write s.ppu.oamAddr.toNat (s.memByte addr) := by
  rw [State.dmaByte, State.read_mem _ _ h]
  rfl

/-- Different places after the cursor are different cells of sprite memory. -/
theorem cursor_add_ne (c : Byte) {k n : Nat} (hk : k < n) (hn : n < 256) :
    (c + BitVec.ofNat 8 k).toNat ≠ (c + BitVec.ofNat 8 n).toNat := by
  rw [BitVec.toNat_add, BitVec.toNat_add, BitVec.toNat_ofNat, BitVec.toNat_ofNat]
  omega

/-- Where the page is memory, each byte copied so far stands at its place after the cursor. -/
theorem State.dmaCopy_oam (h : ¬ Claims.outside (mkWord page 0)) (n : Nat) (hn : n ≤ 256) (k : Nat) (hk : k < n) :
    (State.dmaCopy n (mkWord page 0) s).ppu.oam.read (s.ppu.oamAddr + BitVec.ofNat 8 k).toNat =
      s.memByte (mkWord page (BitVec.ofNat 8 k)) := by
  induction n with
  | zero => omega
  | succ n ih =>
    rw [State.dmaCopy_succ_last, mkWord_zero_add page n (by omega),
      State.dmaByte_oam _ _ (page_in_memory page h _), State.dmaCopy_oamAddr, State.memByte_dmaCopy]
    rcases Nat.lt_succ_iff_lt_or_eq.1 hk with hlt | rfl
    · rw [Mem.read_write_other _ _ (cursor_add_ne _ hlt (by omega)), ih (by omega) hlt]
    · exact Mem.read_write_same _ _ _

end Dma

/-! ### The statements -/

/-- Settles O42: a RAM access is a read or a write of one cell, and the cells of two addresses are the same
where their remainders are. -/
theorem ramReadAfterWrite : Obligations.RamReadAfterWrite := by
  unfold Obligations.RamReadAfterWrite
  intro s a b v ha hb
  refine ⟨?_, State.write_ram_cell s a v ha, State.read_ram_cell s b hb⟩
  rw [State.read_ram_cell _ b hb, State.write_ram_cell s a v ha, Mem.read_write]
  simp only [eq_comm]

/-- Settles O43: one rule of the bus for each range. -/
theorem unmappedAndCartridgeSpace : Obligations.UnmappedAndCartridgeSpace := by
  unfold Obligations.UnmappedAndCartridgeSpace
  intro s a v
  refine ⟨fun h0 h1 h16 h17 => State.read_unmapped s a ⟨h0, h1⟩ h16 h17,
    fun h0 h1 h14 h16 => State.write_unmapped s a v ⟨h0, h1⟩ h14 h16,
    State.write_cart s a v, fun h0 h1 => ?_, fun c hc h0 => ?_⟩
  · rw [State.read_cart_cell s a h0, cartReadPrg_low a s.cart h1]
  · rw [State.read_cart_cell s a (by omega), hc, cartReadPrg_high a c h0]

/-- Settles O44: every access is one register access after the catch-up, a second catch-up replays nothing,
and the register number is the address's low three bits. -/
theorem ppuWindow : Obligations.PpuWindow := by
  unfold Obligations.PpuWindow
  intro s a v h0 h1
  have hb := windowBase_in_window a
  refine ⟨?_, ?_, ?_, ?_, ?_, ?_⟩
  · rw [← windowBase, State.read_ppu s a ⟨h0, h1⟩, State.read_ppu _ _ hb, State.ppuRead_catchUp,
      State.ppuRead_windowBase]
  · rw [← windowBase, State.write_ppu s a v ⟨h0, h1⟩, State.write_ppu _ _ v hb, State.ppuWrite_catchUp,
      State.ppuWrite_windowBase]
  · rw [State.read_ppu s a ⟨h0, h1⟩]
    exact (Ppu.readReg_keeps _ _ _ _).2.trans s.catchUp_lastSynced
  · rw [State.write_ppu s a v ⟨h0, h1⟩]
    exact (Ppu.writeReg_keeps _ _ _ _ _).2.trans s.catchUp_lastSynced
  · rw [State.write_ppu s a v ⟨h0, h1⟩]
    exact (Ppu.writeReg_keeps _ _ _ _ _).1
  · rw [← State.replayed_eq_iterate]
    rfl

/-- Settles O45, by induction on the number of bytes copied: the copy is R100's loop, each round moves the
cursor on by one, and a later round writes another cell of sprite memory. -/
theorem oamDma : Obligations.OamDma := by
  unfold Obligations.OamDma
  intro s page
  have hcycles := State.dmaCopy_cycles s (mkWord page 0) 256
  have hstall := State.dmaCopy_stall s (mkWord page 0) 256
  have hcursor := State.dmaCopy_oamAddr s (mkWord page 0) 256
  have hoam := fun h => State.dmaCopy_oam s page h 256 (Nat.le_refl _)
  rw [State.write_dma, State.oamDma, dmaLoop_eq_dmaCopy]
  generalize State.dmaCopy 256 (mkWord page 0) s = d at hcycles hstall hcursor hoam ⊢
  simp only [hcycles, hstall, hcursor]
  refine ⟨trivial, BitVec.add_zero _, trivial, fun h k => ?_⟩
  have hk := hoam h k.toNat k.isLt
  rwa [BitVec.ofNat_toNat, BitVec.setWidth_eq] at hk

end Sys2Proof.Machine

/-! ## Addressing modes (40_engine): pointer reads, and the statements O6 and O7 -/

namespace Sys2Proof.Machine

section PointerReads

variable (s : State) (p : Word)

/-- A mask of two bytes masks each byte. -/
theorem mkWord_and_mkWord (hi lo hi' lo' : Byte) :
    mkWord hi lo &&& mkWord hi' lo' = mkWord (hi &&& hi') (lo &&& lo') :=
  BitVec.and_append

theorem mkWord_or_mkWord (hi lo hi' lo' : Byte) :
    mkWord hi lo ||| mkWord hi' lo' = mkWord (hi ||| hi') (lo ||| lo') :=
  BitVec.or_append

/-- The mask 0xFF00 keeps the high byte. -/
theorem and_FF00_eq_mkWord : p &&& 0xFF00 = mkWord (hiByte p) 0 :=
  calc p &&& 0xFF00
    _ = mkWord (hiByte p) (loByte p) &&& mkWord 0xFF 0x00 := by rw [mkWord_hiByte_loByte]; rfl
    _ = mkWord (hiByte p &&& 0xFF) (loByte p &&& 0x00) := mkWord_and_mkWord ..
    _ = mkWord (hiByte p) 0 := congrArg₂ mkWord BitVec.and_allOnes BitVec.and_zero

/-- The mask 0x00FF keeps the low byte. -/
theorem and_00FF_eq_mkWord : p &&& 0x00FF = mkWord 0 (loByte p) :=
  calc p &&& 0x00FF
    _ = mkWord (hiByte p) (loByte p) &&& mkWord 0x00 0xFF := by rw [mkWord_hiByte_loByte]; rfl
    _ = mkWord (hiByte p &&& 0x00) (loByte p &&& 0xFF) := mkWord_and_mkWord ..
    _ = mkWord 0 (loByte p) := congrArg₂ mkWord BitVec.and_zero BitVec.and_allOnes

/-- The high byte of a pointer stands in the page of `p`, at the low byte that follows (40_engine R180). -/
theorem samePageNext_eq_mkWord : samePageNext p = mkWord (hiByte p) (loByte (p + 1)) := by
  rw [samePageNext, and_FF00_eq_mkWord, and_00FF_eq_mkWord, mkWord_or_mkWord]
  exact congrArg₂ mkWord BitVec.or_zero BitVec.zero_or

theorem samePageNext_toNat : (samePageNext p).toNat = p.toNat / 256 * 256 + (p.toNat + 1) % 256 := by
  rw [samePageNext_eq_mkWord, mkWord_toNat, hiByte_toNat, loByte_toNat]
  bv_omega

/-- An address stands at the end of its page where its remainder there is 255. -/
theorem pageEnd_iff : p &&& 0x00FF = 0x00FF ↔ p.toNat % 256 = 255 := by
  rw [← BitVec.toNat_inj, and_00FF_eq_mkWord, mkWord_toNat, loByte_toNat]
  simp

/-- Before the page end the high byte of a pointer stands at the next address. -/
theorem samePageNext_of_not_pageEnd (h : p &&& 0x00FF ≠ 0x00FF) : samePageNext p = p + 1 := by
  rw [Ne, pageEnd_iff] at h
  apply BitVec.eq_of_toNat_eq
  rw [samePageNext_toNat]
  bv_omega

/-- At the page end it stands at the page's first address. -/
theorem samePageNext_of_pageEnd (h : p &&& 0x00FF = 0x00FF) : samePageNext p = p - 255 := by
  rw [pageEnd_iff] at h
  apply BitVec.eq_of_toNat_eq
  rw [samePageNext_toNat]
  bv_omega

/-- A pointer in RAM is two RAM cells, and reading it changes nothing (20_memory R81, 40_engine R180). -/
theorem State.read16Bug_ram (h : p.toNat < 0x2000) :
    s.read16Bug p =
      (mkWord (s.ram.read ((samePageNext p).toNat % 2048)) (s.ram.read (p.toNat % 2048)), s) := by
  have hnext : (samePageNext p).toNat < 0x2000 := by rw [samePageNext_toNat]; omega
  rw [State.read16Bug, State.readPair, State.read_ram_cell s p h, State.read_ram_cell s _ hnext]

end PointerReads

/-! ### The statements -/

/-- Settles O6, mode by mode: the modes without a pointer are the spec's sums as they stand, and a zero-page
pointer is the word of its two RAM cells. -/
theorem addressingModes : Obligations.AddressingModes := by
  unfold Obligations.AddressingModes
  intro f s
  cases f with
  | zp z | zpx z | zpy z | abs w | abx w | aby w => rfl
  | izx z | izy z =>
    rw [AddrForm.resolve, State.read16Bug_zeroPage]
    rfl

/-- Settles O7: both clauses about the page end say which address `samePageNext` is, and the third what the two
reads of RAM answer. -/
theorem pointerReadStaysInPage : Obligations.PointerReadStaysInPage := by
  unfold Obligations.PointerReadStaysInPage
  intro s p
  refine ⟨fun h => ?_, fun h => ?_, fun h => ?_⟩
  · rw [State.read16Bug, samePageNext_of_not_pageEnd p h, State.read16]
  · rw [State.read16Bug, samePageNext_of_pageEnd p h]
  · rw [State.read16Bug_ram s p h, samePageNext_toNat]

end Sys2Proof.Machine

/-! ## Loads, stores and transfers (41_load_store_transfer): the shapes of access in the statements' terms,
and the statements O8, O13 and O14 -/

namespace Sys2Proof.Machine

section Flags

variable (p v : Byte)

/-- The bits `nz v` brings into P: N is bit 7 of `v`, Z says whether `v` is 0, and every other bit is 0
(10_state R33). -/
theorem getLsbD_nz (j : Nat) (hj : j < 8) :
    (Claims.nz v).getLsbD j = if j = 7 then v.getLsbD 7 else if j = 1 then v == 0 else false := by
  unfold Claims.nz
  by_cases hv : v = 0#8
  · subst hv
    interval_cases j <;> rfl
  · interval_cases j <;> simp [hv]

/-- `set_nz` is the mask of the statements (00_scope R14). -/
theorem putNZ_eq_withNZ : putNZ p v = Claims.withNZ p v := by
  refine byte_ext _ _ fun j hj => ?_
  rw [getLsbD_putNZ _ _ _ hj, Claims.withNZ, BitVec.getLsbD_or, BitVec.getLsbD_and, getLsbD_nz v j hj]
  interval_cases j <;> simp

theorem State.setNZ_eq (s : State) : s.setNZ v = s.setP (Claims.withNZ s.p v) := by
  rw [State.setNZ, putNZ_eq_withNZ]

end Flags

section Shapes

variable (s : State)

/-! ### Addresses and operands -/

/-- Every mode's resolution in the statements' terms (40_engine R186–R194). -/
theorem AddrForm.resolve_eq (f : AddrForm) : f.resolve s = (⟨Claims.base f s, Claims.ea f s⟩, s) :=
  addressingModes f s

/-- Two addresses lie in different pages exactly where the mask 0xFF00 tells them apart (40_engine R179). -/
theorem pageDiffers_eq_mask (a b : Word) : pageDiffers a b = ((a &&& 0xFF00) != (b &&& 0xFF00)) := by
  have hinj : mkWord (hiByte a) 0 = mkWord (hiByte b) 0 ↔ hiByte a = hiByte b :=
    ⟨fun h => by simpa using congrArg hiByte h, fun h => by rw [h]⟩
  rw [pageDiffers, and_FF00_eq_mkWord, and_FF00_eq_mkWord, Bool.eq_iff_iff, bne_iff_ne, bne_iff_ne, Ne, Ne, hinj]

theorem AddrForm.resolve_crossed (f : AddrForm) : (f.resolve s).1.crossed = Claims.crossed f s := by
  rw [AddrForm.resolve_eq]
  exact pageDiffers_eq_mask _ _

/-- Whether reading the operand crosses a page; an immediate never does. -/
def Source.crosses : Source → State → Bool
  | .imm _, _ => false
  | .mem f, s => Claims.crossed f s

/-- Loading an operand in the statements' terms. -/
theorem Source.load_eq (o : Source) :
    o.load s = ⟨(Claims.operand o s).1, o.crosses s, (Claims.operand o s).2⟩ := by
  cases o with
  | imm i => rfl
  | mem f =>
    rw [Source.load, AddrForm.resolve_crossed, AddrForm.resolve_eq]
    rfl

/-! ### Reads -/

/-- The descriptor of a documented read instruction whose operand is `o` (30_encoding R144, 40_engine R173). -/
def readDesc : Source → Desc
  | .imm _ => row .imm 2 2
  | .mem (.zp _) => row .zp 2 3
  | .mem (.zpx _) => row .zpx 2 4
  | .mem (.zpy _) => row .zpy 2 4
  | .mem (.abs _) => row .abs 3 4
  | .mem (.abx _) => rowX .abx 3 4
  | .mem (.aby _) => rowX .aby 3 4
  | .mem (.izx _) => row .izx 2 6
  | .mem (.izy _) => rowX .izy 2 5

theorem readDesc_length (o : Source) : BitVec.ofNat 16 (readDesc o).length = Claims.sourceLength o := by
  rcases o with _ | f
  · rfl
  · cases f <;> rfl

/-- The base cycles and the page-cross bonus of a read (40_engine R174). -/
theorem readDesc_time (o : Source) :
    (readDesc o).baseCycles + extraCycles (readDesc o) (o.crosses s) false false = Claims.sourceTime o s := by
  rcases o with _ | f
  · rfl
  cases f with
  | zp | zpx | zpy | abs | izx => rfl
  | abx | aby | izy =>
    rw [Source.crosses, Claims.sourceTime, Claims.readTime]
    cases Claims.crossed _ s <;> rfl

/-- What no bus read changes, reading an operand does not change. -/
theorem operand_keeps {α : Type} (o : Source) (g : State → α) (hg : ∀ t addr, g (State.read t addr).2 = g t) :
    g (Claims.operand o s).2 = g s := by
  cases o with
  | imm i => rfl
  | mem f => exact hg s _

@[simp] theorem operand_cycles (o : Source) : (Claims.operand o s).2.cycles = s.cycles :=
  operand_keeps s o State.cycles State.read_cycles

@[simp] theorem afterRead_a (o : Source) : (Claims.afterRead o s).a = s.a := operand_keeps s o State.a State.read_a
@[simp] theorem afterRead_x (o : Source) : (Claims.afterRead o s).x = s.x := operand_keeps s o State.x State.read_x
@[simp] theorem afterRead_y (o : Source) : (Claims.afterRead o s).y = s.y := operand_keeps s o State.y State.read_y
@[simp] theorem afterRead_p (o : Source) : (Claims.afterRead o s).p = s.p := operand_keeps s o State.p State.read_p

/-- `afterRead` by the model's own updates. -/
theorem afterRead_eq (o : Source) : Claims.afterRead o s =
    ((Claims.operand o s).2.setPC (s.pc + Claims.sourceLength o)).addCycles (Claims.sourceTime o s) := by
  rw [Claims.afterRead, ← operand_cycles s o]
  rfl

/-- A documented read instruction is its operation on the operand, in the state after the read, where the
operation does not look at the cycle counter (40_engine R177). -/
theorem readOp_readDesc (o : Source) (f : Byte → State → State)
    (hf : ∀ v t n, (f v t).addCycles n = f v (t.addCycles n)) :
    readOp (readDesc o) o f s = f (Claims.operand o s).1 (Claims.afterRead o s) := by
  rw [readOp_eq, Source.load_eq, hf, readDesc_length, readDesc_time, ← afterRead_eq]

/-! ### Stores -/

/-- The descriptor of a documented store in a mode (30_encoding R144, 40_engine R173). -/
def storeDesc : AddrForm → Desc
  | .zp _ => row .zp 2 3
  | .zpx _ => row .zpx 2 4
  | .zpy _ => row .zpy 2 4
  | .abs _ => row .abs 3 4
  | .abx _ => row .abx 3 5
  | .aby _ => row .aby 3 5
  | .izx _ => row .izx 2 6
  | .izy _ => row .izy 2 6

theorem storeDesc_length (f : AddrForm) : BitVec.ofNat 16 (storeDesc f).length = Claims.addrLength f := by
  cases f <;> rfl

/-- A store has no bonus (40_engine R174). -/
theorem storeDesc_time (f : AddrForm) (crossed : Bool) :
    (storeDesc f).baseCycles + extraCycles (storeDesc f) crossed false false = Claims.storeTime f := by
  cases f <;> rfl

/-- A documented store of a register is one write at the effective address (40_engine R177). -/
theorem storeOp_storeDesc (f : AddrForm) (v : State → Byte) (hv : ∀ t w, v (State.setPC t w) = v t) :
    storeOp (storeDesc f) f v s = Claims.afterStore f (v s) s := by
  rw [storeOp_eq _ _ _ _ hv, storeDesc_length, storeDesc_time, AddrForm.resolve_eq, Claims.afterStore,
    ← s.write_cycles (Claims.ea f s) (v s)]
  rfl

/-! ### Instructions without an operand -/

/-- A two-cycle instruction without an operand is its operation after PC and the cycles have moved, where the
operation does not look at the cycle counter (40_engine R183). -/
theorem impliedOp_row (f : State → State) (hf : ∀ t n, (f t).addCycles n = f (t.addCycles n)) :
    impliedOp (row .imp 1 2) f s = f (Claims.implied 2 s) :=
  hf _ 2

end Shapes

/-! ### The descriptors of the instructions (30_encoding R144, 40_engine R173) -/

theorem desc_lda (m : ReadMode) : (Instr.lda m).desc = readDesc m.source := by
  cases m <;> (rw [Instr.desc, Instr.opcode]; rfl)

theorem desc_ldx (m : LdxMode) : (Instr.ldx m).desc = readDesc m.source := by
  cases m <;> (rw [Instr.desc, Instr.opcode]; rfl)

theorem desc_ldy (m : LdyMode) : (Instr.ldy m).desc = readDesc m.source := by
  cases m <;> (rw [Instr.desc, Instr.opcode]; rfl)

theorem desc_sta (m : MemMode) : (Instr.sta m).desc = storeDesc m.form := by
  cases m <;> (rw [Instr.desc, Instr.opcode]; rfl)

theorem desc_stx (m : StxMode) : (Instr.stx m).desc = storeDesc m.form := by
  cases m <;> (rw [Instr.desc, Instr.opcode]; rfl)

theorem desc_sty (m : StyMode) : (Instr.sty m).desc = storeDesc m.form := by
  cases m <;> (rw [Instr.desc, Instr.opcode]; rfl)

/-- Every transfer is one byte and two cycles. -/
theorem desc_transfer : ∀ i ∈ [Instr.tax, .tay, .tsx, .txa, .txs, .tya], i.desc = row .imp 1 2 := by
  decide

/-! ### The statements -/

/-- Settles O8: each load is a read instruction that sets one register and N and Z. -/
theorem loadResults : Obligations.LoadResults := by
  unfold Obligations.LoadResults
  refine ⟨fun m s => ⟨by cases m <;> rfl, ?_⟩, fun m s => ⟨by cases m <;> rfl, ?_⟩,
    fun m s => ⟨by cases m <;> rfl, ?_⟩⟩
  · rw [exec, execLda, desc_lda, readOp_readDesc _ _ _ fun _ _ _ => rfl, State.setNZ_eq, State.setA_p, afterRead_p]
    rfl
  · rw [exec, execLdx, desc_ldx, readOp_readDesc _ _ _ fun _ _ _ => rfl, State.setNZ_eq, State.setX_p, afterRead_p]
    rfl
  · rw [exec, execLdy, desc_ldy, readOp_readDesc _ _ _ fun _ _ _ => rfl, State.setNZ_eq, State.setY_p, afterRead_p]
    rfl

/-- Settles O13: each store is one write of its register, which does not depend on PC. -/
theorem storeResults : Obligations.StoreResults := by
  unfold Obligations.StoreResults
  refine ⟨fun m s => ⟨by cases m <;> rfl, ?_⟩, fun m s => ⟨by cases m <;> rfl, ?_⟩,
    fun m s => ⟨by cases m <;> rfl, ?_⟩⟩
  · rw [exec, execSta, desc_sta, storeOp_storeDesc _ _ _ State.setPC_a]
  · rw [exec, execStx, desc_stx, storeOp_storeDesc _ _ _ State.setPC_x]
  · rw [exec, execSty, desc_sty, storeOp_storeDesc _ _ _ State.setPC_y]

/-- Settles O14: each transfer is its operation after PC and the cycles have moved. -/
theorem transferResults : Obligations.TransferResults := by
  unfold Obligations.TransferResults
  refine ⟨fun s => ⟨?_, ?_, ?_, ?_, ?_, ?_⟩, rfl, rfl, rfl, rfl, rfl, rfl⟩
  · rw [exec, execTax, desc_transfer _ (by simp), impliedOp_row _ _ fun _ _ => rfl, State.setNZ_eq]
    rfl
  · rw [exec, execTay, desc_transfer _ (by simp), impliedOp_row _ _ fun _ _ => rfl, State.setNZ_eq]
    rfl
  · rw [exec, execTsx, desc_transfer _ (by simp), impliedOp_row _ _ fun _ _ => rfl, State.setNZ_eq]
    rfl
  · rw [exec, execTxa, desc_transfer _ (by simp), impliedOp_row _ _ fun _ _ => rfl, State.setNZ_eq]
    rfl
  · rw [exec, execTxs, desc_transfer _ (by simp), impliedOp_row _ _ fun _ _ => rfl]
    rfl
  · rw [exec, execTya, desc_transfer _ (by simp), impliedOp_row _ _ fun _ _ => rfl, State.setNZ_eq]
    rfl

end Sys2Proof.Machine

/-! ## The stack (42_stack): pushes and pulls in the statements' terms, and the statement O18 -/

namespace Sys2Proof.Machine

section StackOps

variable (s : State) (n : Nat)

/-- An instruction without an operand, of any number of cycles, is its operation after PC and the cycles have
moved, where the operation does not look at the cycle counter (40_engine R183). -/
theorem impliedOp_row_cycles (f : State → State) (hf : ∀ t, (f t).addCycles n = f (t.addCycles n)) :
    impliedOp (row .imp 1 n) f s = f (Claims.implied n s) :=
  hf _

/-- A push goes to RAM, so it does not look at the cycle counter (42_stack R230). -/
theorem State.push_addCycles (v : Byte) : (s.push v).addCycles n = (s.addCycles n).push v := by
  rw [State.push_eq, State.push_eq]
  rfl

/-- Nor does a pull. -/
theorem State.pull_addCycles : (s.addCycles n).pull = (s.pull.1, s.pull.2.addCycles n) := by
  rw [State.pull_eq, State.pull_eq]
  rfl

end StackOps

/-! ### The descriptors (30_encoding R144, 40_engine R173) -/

/-- Every push is one byte and three cycles. -/
theorem desc_push : ∀ i ∈ [Instr.pha, .php], i.desc = row .imp 1 3 := by
  decide

/-- Every pull is one byte and four cycles. -/
theorem desc_pull : ∀ i ∈ [Instr.pla, .plp], i.desc = row .imp 1 4 := by
  decide

/-! ### The statement -/

/-- Settles O18: each instruction is one push or one pull after PC and the cycles have moved, and the stack cell
is RAM, which no cycle count changes. -/
theorem stackResults : Obligations.StackResults := by
  unfold Obligations.StackResults
  refine ⟨fun s => ⟨?pha, ?php, ?pla, ?plp⟩, rfl, rfl, rfl, rfl⟩
  case pha =>
    rw [exec, execPha, desc_push _ (by simp), impliedOp_row_cycles _ _ _ fun t => t.push_addCycles 3 t.a,
      State.push_eq]
    rfl
  case php =>
    rw [exec, execPhp, desc_push _ (by simp),
      impliedOp_row_cycles _ _ _ fun t => t.push_addCycles 3 (pushedStatus t.p), State.push_eq]
    rfl
  case pla =>
    rw [exec, execPla, desc_pull _ (by simp), impliedOp_row_cycles _ _ _ fun t => by rw [t.pull_addCycles]; rfl,
      State.pull_eq, State.setNZ_eq]
    rfl
  case plp =>
    rw [exec, execPlp, desc_pull _ (by simp), impliedOp_row_cycles _ _ _ fun t => by rw [t.pull_addCycles]; rfl,
      State.pull_eq]
    rfl

end Sys2Proof.Machine

/-! ## The ALU (43_alu): its formulas in the statements' terms, read-modify-write, and the statements O9–O12, O15
and O16 -/

namespace Sys2Proof.Machine

section AluFormulas

variable (a m p v : Byte) (carry overflow : Bool)

/-! ### Flags as masks (10_state R33) -/

/-- The bits of a flag as the statements write it. -/
theorem getLsbD_flag (k j : Nat) (b : Bool) (hj : j < 8) :
    (Claims.flag k b).getLsbD j = (decide (j = k) && b) := by
  cases b
  · exact (BitVec.getLsbD_zero).trans (Bool.and_false _).symm
  · calc ((1 : Byte) <<< k).getLsbD j
      _ = (BitVec.twoPow 8 k).getLsbD j := by rw [BitVec.twoPow_eq]; rfl
      _ = (decide (j = k) && true) := by
        rw [BitVec.getLsbD_twoPow, Bool.and_true, ← Bool.decide_and, decide_eq_decide]
        omega

/-- Bit 7 of a byte by its mask. -/
theorem getLsbD_seven : v.getLsbD 7 = (v &&& 0x80 != 0) := by
  revert v
  decide +kernel

/-- The carry as a number. -/
theorem bitNat_flagC : bitNat (flagC p) = (p &&& 0x01).toNat := by
  revert p
  decide +kernel

/-- V and C are two bits of P, so the order in which they are written does not matter. -/
theorem putV_putC : putV (putC p carry) overflow = putC (putV p overflow) carry := by
  refine byte_ext _ _ fun j hj => ?_
  simp only [putV, putC, getLsbD_withBit _ _ _ _ hj]
  interval_cases j <;> rfl

/-- The statements' mask for N, Z and C writes C, then N and Z. -/
theorem withNZC_eq : Claims.withNZC p v carry = Claims.withNZ (putC p carry) v := by
  refine byte_ext _ _ fun j hj => ?_
  simp only [Claims.withNZC, Claims.withNZ, putC, BitVec.getLsbD_or, BitVec.getLsbD_and, getLsbD_flag _ _ _ hj,
    getLsbD_withBit _ _ _ _ hj, getLsbD_nz _ _ hj]
  interval_cases j <;> simp

/-- The mask for V besides writes V before them. -/
theorem withNVZC_eq : Claims.withNVZC p v overflow carry = Claims.withNZC (putV p overflow) v carry := by
  refine byte_ext _ _ fun j hj => ?_
  simp only [Claims.withNVZC, Claims.withNZC, putV, BitVec.getLsbD_or, BitVec.getLsbD_and, getLsbD_flag _ _ _ hj,
    getLsbD_withBit _ _ _ _ hj, getLsbD_nz _ _ hj]
  interval_cases j <;> simp

/-! ### Each formula (43_alu R242–R254) -/

theorem addCarry_eq_adc : addCarry a m p = Claims.adc a m p := by
  simp only [addCarry, bitNat_flagC, getLsbD_seven, putNZ_eq_withNZ, ← withNZC_eq, ← withNVZC_eq]
  rfl

theorem subBorrow_eq_sbc : subBorrow a m p = Claims.sbc a m p := by
  simp only [subBorrow, bitNat_flagC, getLsbD_seven, putV_putC, putNZ_eq_withNZ, ← withNZC_eq, ← withNVZC_eq]
  rfl

/-- Z of a compare says that the operands are equal, which is that their difference is 0 (R242). -/
theorem compareFlags_eq_cmp : compareFlags a m p = Claims.cmp a m p := by
  have hz : (a == m) = (a - m == 0) := by rw [Bool.eq_iff_iff, beq_iff_eq, beq_iff_eq, sub_eq_zero]
  rw [Claims.cmp, withNZC_eq, ← putNZ_eq_withNZ, compareFlags, hz]
  rfl

theorem bitFlags_eq_bit : bitFlags a m p = Claims.bit a m p := by
  refine byte_ext _ _ fun j hj => ?_
  simp only [bitFlags, Claims.bit, putN, putV, putZ, BitVec.getLsbD_or, getLsbD_flag _ _ _ hj,
    getLsbD_withBit _ _ _ _ hj]
  interval_cases j <;> simp

theorem increment_eq_inc : increment m p = Claims.inc p m := by
  rw [increment, putNZ_eq_withNZ, Claims.inc]

theorem decrement_eq_dec : decrement m p = Claims.dec p m := by
  rw [decrement, putNZ_eq_withNZ, Claims.dec]

/-- SBC is ADC of the complement: `~M` is `255 - M`, so the sum is the difference plus 256, which changes no bit of
the result and puts "no borrow" where the carry stands (R245). -/
theorem subBorrow_eq_addCarry_not : subBorrow a m p = addCarry a (~~~m) p := by
  simp only [subBorrow, addCarry, BitVec.not_xor_right, BitVec.not_not, putV_putC]
  generalize hdiff : (a.toNat : ℤ) - m.toNat - (1 - (bitNat (flagC p) : ℤ)) = diff
  generalize hsum : a.toNat + (~~~m).toNat + bitNat (flagC p) = sum
  have hshift : (sum : ℤ) = diff + 256 := by
    rw [BitVec.toNat_not] at hsum
    omega
  have hresult : BitVec.ofNat 8 sum = BitVec.ofInt 8 diff := by
    rw [← BitVec.ofInt_natCast, hshift, BitVec.ofInt_add]
    exact BitVec.add_zero _
  have hcarry : decide (256 ≤ sum) = decide (0 ≤ diff) := by
    rw [decide_eq_decide]
    omega
  rw [hresult, hcarry]

end AluFormulas

section Accumulate

variable (s : State)

/-- A read instruction that sets A to an operation on A and the operand, and N and Z from it (R246–R248). -/
theorem readOp_setA (o : Source) (g : Byte → Byte → Byte) :
    readOp (readDesc o) o (fun v t => (t.setA (g t.a v)).setNZ (g t.a v)) s = { Claims.afterRead o s with
      a := g s.a (Claims.operand o s).1
      p := Claims.withNZ s.p (g s.a (Claims.operand o s).1) } := by
  rw [readOp_readDesc _ _ _ fun _ _ _ => rfl, State.setNZ_eq, State.setA_p, afterRead_a, afterRead_p]
  rfl

/-- A read instruction that sets A and P to a formula of A, the operand and P (R244, R245). -/
theorem readOp_setAP (o : Source) (g : Byte → Byte → Byte → Byte × Byte) :
    readOp (readDesc o) o (fun v t => t.setAP (g t.a v t.p)) s = { Claims.afterRead o s with
      a := (g s.a (Claims.operand o s).1 s.p).1
      p := (g s.a (Claims.operand o s).1 s.p).2 } := by
  rw [readOp_readDesc _ _ _ fun _ _ _ => rfl, afterRead_a, afterRead_p]
  rfl

end Accumulate

section ReadModifyWrite

variable (s : State)

/-- The descriptor of a documented read-modify-write in a mode (30_encoding R144, 40_engine R173). The shifts have
all five modes, INC and DEC those of memory. -/
def rmwDesc : ShiftMode → Desc
  | .acc => row .acc 1 2
  | .zp _ => rowM .zp 2 5
  | .zpx _ => rowM .zpx 2 6
  | .abs _ => rowM .abs 3 6
  | .abx _ => rowM .abx 3 7

theorem rmwDesc_length (m : ShiftMode) (f : AddrForm) (h : m.target = .mem f) :
    BitVec.ofNat 16 (rmwDesc m).length = Claims.addrLength f := by
  cases m <;> cases h <;> rfl

/-- A read-modify-write has no page-cross bonus (40_engine R174). -/
theorem rmwDesc_time (m : ShiftMode) (f : AddrForm) (h : m.target = .mem f) (crossed : Bool) :
    (rmwDesc m).baseCycles + extraCycles (rmwDesc m) crossed false false = Claims.rmwTime f := by
  cases m <;> cases h <;> rfl

/-- An address that is its own base crosses no page (40_engine R179). -/
theorem crossed_of_ea_eq_base (f : AddrForm) (h : Claims.ea f s = Claims.base f s) : Claims.crossed f s = false := by
  rw [Claims.crossed, h]
  exact bne_self_eq_false _

/-- The reads of a read-modify-write: of its modes only abx can cross, and then the dummy read comes first (R182). -/
theorem rmwOperand_eq (m : ShiftMode) (f : AddrForm) (h : m.target = .mem f) :
    (s.dummyRead (rmwDesc m) ⟨Claims.base f s, Claims.ea f s⟩).read (Claims.ea f s) = Claims.rmwOperand f s := by
  have hcrossed : Effective.crossed ⟨Claims.base f s, Claims.ea f s⟩ = Claims.crossed f s := pageDiffers_eq_mask _ _
  rw [State.dummyRead, hcrossed]
  cases m with
  | acc => cases h
  | zp | zpx | abs =>
    cases h
    rw [crossed_of_ea_eq_base _ _ rfl]
    rfl
  | abx w =>
    cases h
    rw [Claims.rmwOperand, apply_ite (State.read · (Claims.ea (.abx w) s))]
    rfl

@[simp] theorem rmwOperand_cycles (f : AddrForm) : (Claims.rmwOperand f s).2.cycles = s.cycles := by
  cases f with
  | abx w =>
    rw [Claims.rmwOperand]
    split <;> simp only [State.read_cycles]
  | _ => exact State.read_cycles _ _

/-- A documented read-modify-write in the statements' terms: its reads, one write, and P (40_engine R177, R182). -/
theorem rmwOp_rmwDesc (m : ShiftMode) (f : Byte → Byte → Byte × Byte) :
    rmwOp (rmwDesc m) m.target f s = Claims.afterRmw m.target (fun v => f v s.p) s := by
  rcases h : m.target with _ | a
  · cases m <;> cases h
    rfl
  · simp only [rmwOp_mem_eq, AddrForm.resolve_eq, rmwOperand_eq s m a h, rmwDesc_length m a h, rmwDesc_time m a h,
      Claims.afterRmw]
    rw [← rmwOperand_cycles s a, ← State.write_cycles _ (Claims.ea a s) (f (Claims.rmwOperand a s).1 s.p).1]
    rfl

end ReadModifyWrite

/-! ### The descriptors of the instructions (30_encoding R144, 40_engine R173) -/

/-- A mode of INC or DEC as one of the shifts. -/
def incToShift : IncMode → ShiftMode
  | .zp z => .zp z
  | .zpx z => .zpx z
  | .abs w => .abs w
  | .abx w => .abx w

theorem incToShift_target (m : IncMode) : (incToShift m).target = m.target := by
  cases m <;> rfl

theorem desc_alu (m : ReadMode) :
    ∀ i ∈ [Instr.adc m, .sbc m, .and m, .ora m, .eor m, .cmp m], i.desc = readDesc m.source := by
  simp only [List.forall_mem_cons, List.not_mem_nil, false_implies, implies_true, and_true]
  refine ⟨?_, ?_, ?_, ?_, ?_, ?_⟩ <;> cases m <;> (rw [Instr.desc, Instr.opcode]; rfl)

theorem desc_indexCompare (m : CpxMode) : ∀ i ∈ [Instr.cpx m, .cpy m], i.desc = readDesc m.source := by
  simp only [List.forall_mem_cons, List.not_mem_nil, false_implies, implies_true, and_true]
  refine ⟨?_, ?_⟩ <;> cases m <;> (rw [Instr.desc, Instr.opcode]; rfl)

theorem desc_bit (m : BitMode) : (Instr.bit m).desc = readDesc m.source := by
  cases m <;> (rw [Instr.desc, Instr.opcode]; rfl)

theorem desc_incDec (m : IncMode) : ∀ i ∈ [Instr.inc m, .dec m], i.desc = rmwDesc (incToShift m) := by
  simp only [List.forall_mem_cons, List.not_mem_nil, false_implies, implies_true, and_true]
  refine ⟨?_, ?_⟩ <;> cases m <;> (rw [Instr.desc, Instr.opcode]; rfl)

theorem desc_indexCount : ∀ i ∈ [Instr.inx, .iny, .dex, .dey], i.desc = row .imp 1 2 := by
  decide

/-! ### The statements -/

/-- Settles O9: each is a read instruction that sets A and N and Z. -/
theorem logicResults : Obligations.LogicResults := by
  unfold Obligations.LogicResults
  intro m s
  refine ⟨by cases m <;> rfl, ?and, by cases m <;> rfl, ?ora, by cases m <;> rfl, ?eor⟩
  case and => rw [exec, execAnd, desc_alu m _ (by simp), readOp_setA s m.source (· &&& ·)]
  case ora => rw [exec, execOra, desc_alu m _ (by simp), readOp_setA s m.source (· ||| ·)]
  case eor => rw [exec, execEor, desc_alu m _ (by simp), readOp_setA s m.source (· ^^^ ·)]

/-- Settles O10: ADC is a read instruction that writes A and P by the formula of R244. -/
theorem adcResult : Obligations.AdcResult := by
  unfold Obligations.AdcResult
  intro m s
  refine ⟨by cases m <;> rfl, ?_⟩
  rw [exec, execAdc, desc_alu m _ (by simp), readOp_setAP, addCarry_eq_adc]

/-- Settles O11: SBC is a read instruction that writes A and P by the formula of R245. -/
theorem sbcResult : Obligations.SbcResult := by
  unfold Obligations.SbcResult
  refine ⟨fun m s => ⟨by cases m <;> rfl, ?_⟩, subBorrow_eq_addCarry_not⟩
  rw [exec, execSbc, desc_alu m _ (by simp), readOp_setAP, subBorrow_eq_sbc]

/-- Settles O12: each is a read instruction that writes P only. -/
theorem compareAndBitResults : Obligations.CompareAndBitResults := by
  unfold Obligations.CompareAndBitResults
  refine ⟨fun m s => ⟨by cases m <;> rfl, ?cmp⟩,
    fun m s => ⟨by cases m <;> rfl, ?cpx, by cases m <;> rfl, ?cpy⟩, fun m s => ⟨by cases m <;> rfl, ?bit⟩⟩
  case cmp =>
    rw [exec, execCmp, desc_alu m _ (by simp), readOp_readDesc _ _ _ fun _ _ _ => rfl, afterRead_a, afterRead_p,
      compareFlags_eq_cmp]
    rfl
  case cpx =>
    rw [exec, execCpx, desc_indexCompare m _ (by simp), readOp_readDesc _ _ _ fun _ _ _ => rfl, afterRead_x,
      afterRead_p, compareFlags_eq_cmp]
    rfl
  case cpy =>
    rw [exec, execCpy, desc_indexCompare m _ (by simp), readOp_readDesc _ _ _ fun _ _ _ => rfl, afterRead_y,
      afterRead_p, compareFlags_eq_cmp]
    rfl
  case bit =>
    rw [exec, execBit, desc_bit, readOp_readDesc _ _ _ fun _ _ _ => rfl, afterRead_a, afterRead_p, bitFlags_eq_bit]
    rfl

/-- Settles O15: each is its operation after PC and the cycles have moved. -/
theorem indexCountResults : Obligations.IndexCountResults := by
  unfold Obligations.IndexCountResults
  refine ⟨fun s => ⟨?inx, ?iny, ?dex, ?dey⟩, rfl, rfl, rfl, rfl⟩
  case inx =>
    rw [exec, execInx, desc_indexCount _ (by simp), impliedOp_row _ _ fun _ _ => rfl, State.setNZ_eq]
    rfl
  case iny =>
    rw [exec, execIny, desc_indexCount _ (by simp), impliedOp_row _ _ fun _ _ => rfl, State.setNZ_eq]
    rfl
  case dex =>
    rw [exec, execDex, desc_indexCount _ (by simp), impliedOp_row _ _ fun _ _ => rfl, State.setNZ_eq]
    rfl
  case dey =>
    rw [exec, execDey, desc_indexCount _ (by simp), impliedOp_row _ _ fun _ _ => rfl, State.setNZ_eq]
    rfl

/-- Settles O16: both are a read-modify-write in a memory mode of the shifts. -/
theorem memoryCountResults : Obligations.MemoryCountResults := by
  unfold Obligations.MemoryCountResults
  intro m s
  refine ⟨by cases m <;> rfl, ?inc, by cases m <;> rfl, ?dec⟩
  case inc =>
    rw [exec, execInc, desc_incDec m _ (by simp), ← incToShift_target, rmwOp_rmwDesc]
    simp only [increment_eq_inc]
  case dec =>
    rw [exec, execDec, desc_incDec m _ (by simp), ← incToShift_target, rmwOp_rmwDesc]
    simp only [decrement_eq_dec]

end Sys2Proof.Machine

/-! ## Shifts and rotates (44_shift_rotate): their formulas in the statements' terms, and the statement O17 -/

namespace Sys2Proof.Machine

section ShiftFormulas

variable (m p x : Byte) (carry : Bool)

/-! ### Bits shifted out and bits shifted in (44_shift_rotate R270–R273) -/

/-- Bit 7, which a left shift moves into C, is set from 128 on. -/
theorem getLsbD_seven_eq_decide : m.getLsbD 7 = decide (128 ≤ m.toNat) :=
  (BitVec.msb_eq_getLsbD_last m).symm.trans (BitVec.msb_eq_decide m)

/-- The mask 0x01 keeps the carry. -/
theorem bitByte_flagC : bitByte (flagC p) = p &&& 0x01 := by
  apply BitVec.eq_of_toNat_eq
  rw [← bitNat_flagC]
  cases flagC p <;> rfl

/-- Bit 0, which a right shift moves into C, by its mask. -/
theorem getLsbD_zero_eq_mask : m.getLsbD 0 = (m &&& 0x01 != 0) := by
  rw [← bitByte_flagC, flagC]
  cases m.getLsbD 0 <;> rfl

theorem shiftLeft_one_eq_add : m <<< 1 = m + m :=
  (BitVec.shiftLeft_eq_mul_twoPow m 1).trans BitVec.mul_two

theorem ushiftRight_one_eq_ofNat : m >>> 1 = BitVec.ofNat 8 (m.toNat / 2) := by
  apply BitVec.eq_of_toNat_eq
  rw [BitVec.toNat_ushiftRight, BitVec.toNat_ofNat, Nat.shiftRight_eq_div_pow]
  omega

/-- A carry that enters a clear bit is added there. -/
theorem or_bitByte_shiftLeft (k : Nat) (h : x.getLsbD k = false) :
    x ||| bitByte carry <<< k = x + bitByte carry <<< k := by
  refine (BitVec.add_eq_or_of_and_eq_zero _ _ ?_).symm
  cases carry with
  | false => exact (congrArg (x &&& ·) (BitVec.zero_shiftLeft k)).trans BitVec.and_zero
  | true =>
    calc x &&& (1 : Byte) <<< k
      _ = x &&& BitVec.twoPow 8 k := by rw [BitVec.twoPow_eq]; rfl
      _ = 0 := by rw [BitVec.and_twoPow, h]; rfl

/-! ### Each formula -/

/-- C as written, then N and Z from the result (10_state R33). -/
theorem putNZ_putC_eq_withNZC : putNZ (putC p carry) x = Claims.withNZC p x carry := by
  rw [putNZ_eq_withNZ, withNZC_eq]

theorem shiftLeft_eq_asl : shiftLeft m p = Claims.asl p m := by
  simp only [shiftLeft, Claims.asl, putNZ_putC_eq_withNZC, getLsbD_seven_eq_decide, shiftLeft_one_eq_add]

theorem shiftRight_eq_lsr : shiftRight m p = Claims.lsr p m := by
  simp only [shiftRight, Claims.lsr, putNZ_putC_eq_withNZC, getLsbD_zero_eq_mask, ushiftRight_one_eq_ofNat]

/-- The result of ROL: the shift leaves bit 0 clear for the old C (R272). -/
theorem rotateLeft_result : m <<< 1 ||| bitByte (flagC p) = m + m + (p &&& 0x01) := by
  have hclear : (m <<< 1).getLsbD 0 = false := by simp
  calc m <<< 1 ||| bitByte (flagC p)
    _ = m <<< 1 ||| bitByte (flagC p) <<< 0 := by rw [BitVec.shiftLeft_zero]
    _ = m <<< 1 + bitByte (flagC p) <<< 0 := or_bitByte_shiftLeft _ _ 0 hclear
    _ = m + m + (p &&& 0x01) := by rw [BitVec.shiftLeft_zero, shiftLeft_one_eq_add, bitByte_flagC]

/-- The result of ROR: the shift leaves bit 7 clear for the old C (R273). -/
theorem rotateRight_result : m >>> 1 ||| bitByte (flagC p) <<< 7 =
    BitVec.ofNat 8 (m.toNat / 2 + 128 * (p &&& 0x01).toNat) := by
  have hclear : (m >>> 1).getLsbD 7 = false := by simp
  rw [or_bitByte_shiftLeft _ _ 7 hclear, BitVec.ofNat_add, ushiftRight_one_eq_ofNat, ← bitNat_flagC]
  cases flagC p <;> rfl

theorem rotateLeft_eq_rol : rotateLeft m p = Claims.rol p m := by
  simp only [rotateLeft, Claims.rol, putNZ_putC_eq_withNZC, getLsbD_seven_eq_decide, rotateLeft_result]

theorem rotateRight_eq_ror : rotateRight m p = Claims.ror p m := by
  simp only [rotateRight, Claims.ror, putNZ_putC_eq_withNZC, getLsbD_zero_eq_mask, rotateRight_result]

end ShiftFormulas

/-! ### The descriptors (30_encoding R144, 40_engine R173) -/

theorem desc_shift (m : ShiftMode) : ∀ i ∈ [Instr.asl m, .lsr m, .rol m, .ror m], i.desc = rmwDesc m := by
  simp only [List.forall_mem_cons, List.not_mem_nil, false_implies, implies_true, and_true]
  refine ⟨?_, ?_, ?_, ?_⟩ <;> cases m <;> (rw [Instr.desc, Instr.opcode]; rfl)

/-! ### The statement -/

/-- Settles O17: each is a documented read-modify-write of A or of memory, and its formula is the statements'. -/
theorem shiftRotateResults : Obligations.ShiftRotateResults := by
  unfold Obligations.ShiftRotateResults
  intro m s
  refine ⟨by cases m <;> rfl, ?asl, by cases m <;> rfl, ?rol, by cases m <;> rfl, ?lsr, by cases m <;> rfl, ?ror⟩
  case asl =>
    rw [exec, execAsl, desc_shift m _ (by simp), rmwOp_rmwDesc]
    simp only [shiftLeft_eq_asl]
  case rol =>
    rw [exec, execRol, desc_shift m _ (by simp), rmwOp_rmwDesc]
    simp only [rotateLeft_eq_rol]
  case lsr =>
    rw [exec, execLsr, desc_shift m _ (by simp), rmwOp_rmwDesc]
    simp only [shiftRight_eq_lsr]
  case ror =>
    rw [exec, execRor, desc_shift m _ (by simp), rmwOp_rmwDesc]
    simp only [rotateRight_eq_ror]

end Sys2Proof.Machine

/-! ## Control transfer (45_control_transfer): jumps, calls, traps and branches in the statements' terms, and the
statements O19–O22 -/

namespace Sys2Proof.Machine

section Transfers

variable (s : State) (n : Nat)

/-- An instruction without a bonus is its operation after PC has moved, then the cycles (40_engine R183). -/
theorem impliedOp_row_eq (m : Mode) (len : Nat) (f : State → State) :
    impliedOp (row m len n) f s = (f (s.setPC (s.pc + BitVec.ofNat 16 len))).addCycles n :=
  rfl

/-! ### Jumps (45_control R280) -/

/-- Reading a pointer does not depend on PC. -/
theorem State.readPair_setPC (lo hi w : Word) :
    (s.setPC w).readPair lo hi = ((s.readPair lo hi).1, (s.readPair lo hi).2.setPC w) := by
  simp only [State.readPair, State.read_setPC]

/-- Reading a pointer takes no cycle. -/
theorem State.readPair_cycles (lo hi : Word) : (s.readPair lo hi).2.cycles = s.cycles := by
  rw [State.readPair, State.read_cycles, State.read_cycles]

/-- Where a jump goes does not depend on PC. -/
theorem JmpMode.target_setPC (m : JmpMode) (w : Word) :
    m.target (s.setPC w) = ((m.target s).1, (m.target s).2.setPC w) := by
  cases m with
  | abs => rfl
  | ind p => exact s.readPair_setPC _ _ w

theorem JmpMode.target_cycles (m : JmpMode) : (m.target s).2.cycles = s.cycles := by
  cases m with
  | abs => rfl
  | ind p => exact s.readPair_cycles _ _

/-- A jump of `n` cycles: PC is its target, and only the pointer reads of the indirect form change anything more. -/
theorem impliedOp_jmp (m : JmpMode) (mode : Mode) (len : Nat) :
    impliedOp (row mode len n) (fun s => (m.target s).2.setPC (m.target s).1) s =
      { (m.target s).2 with pc := (m.target s).1, cycles := s.cycles + n } := by
  rw [impliedOp_row_eq, JmpMode.target_setPC, ← JmpMode.target_cycles s m]
  rfl

/-! ### Words on the stack, and traps (42_stack R230, 45_control R281–R284) -/

/-- A word pushed is its two bytes pushed, high byte first. -/
theorem State.pushWord_eq_pushedRam (w : Word) : s.pushWord w =
    { s with ram := Claims.pushedRam s.ram s.sp [hiByte w, loByte w], sp := s.sp - 2 } := by
  have hsp : s.sp - 1 - 1 = s.sp - 2 := sub_sub ..
  rw [State.pushWord_eq, hsp]
  rfl

/-- A word pulled is the two bytes on top of the stack, low byte first. -/
theorem State.pullWord_eq_top : s.pullWord =
    (mkWord (Claims.top s 2) (Claims.top s 1), { s with sp := s.sp + 2 }) := by
  have hsp : s.sp + 1 + 1 = s.sp + 2 := add_assoc ..
  rw [State.pullWord_eq, hsp]
  rfl

/-- A trap in the statements' terms, at a vector in cartridge space. -/
theorem State.takeTrap_eq_pushedRam (v : Word) (h : 0x6000 ≤ v.toNat) (h' : 0x6000 ≤ (v + 1).toNat) :
    s.takeTrap v = { s with
      ram := Claims.pushedRam s.ram s.sp [hiByte s.pc, loByte s.pc, s.p ||| 0x10]
      sp := s.sp - 3, p := s.p ||| 0x04, pc := Claims.vector s v } := by
  have hsp : s.sp - 1 - 1 - 1 = s.sp - 3 := (sub_sub ..).trans (sub_sub ..)
  rw [State.takeTrap_eq _ _ h h', hsp]
  rfl

/-- The return from a trap in the statements' terms: P, then PC-low, then PC-high. -/
theorem State.returnFromTrap_eq_top : s.returnFromTrap = { s with
    p := (Claims.top s 1 &&& 0xCF) ||| 0x20, sp := s.sp + 3
    pc := mkWord (Claims.top s 3) (Claims.top s 2) } := by
  have hsp2 : s.sp + 1 + 1 = s.sp + 2 := add_assoc ..
  have hsp3 : s.sp + 2 + 1 = s.sp + 3 := add_assoc ..
  rw [State.returnFromTrap_eq, hsp2, hsp3]
  rfl

/-! ### Branches (45_control R285) -/

/-- A bit of a byte by its mask. -/
theorem getLsbD_eq_mask (v : Byte) (k : Nat) (hk : k < 8) : v.getLsbD k = (v &&& BitVec.twoPow 8 k != 0) := by
  rw [BitVec.and_twoPow]
  cases v.getLsbD k with
  | false => rfl
  | true =>
    have hbit : BitVec.twoPow 8 k ≠ 0 := by interval_cases k <;> decide
    exact (bne_iff_ne.2 hbit).symm

/-- A branch not taken goes on after its two bytes; one taken goes to its target, with one cycle more and another
where the target lies in another page. -/
theorem branchOp_rowB (taken : Bool) (o : Byte) :
    branchOp (rowB .rel 2 2) taken o s = Claims.branch taken o s := by
  cases taken with
  | false => rfl
  | true =>
    have htime : ∀ a b : Word, 2 + extraCycles (rowB .rel 2 2) false true (pageDiffers a b) =
        if a &&& 0xFF00 = b &&& 0xFF00 then 3 else 4 := by
      intro a b
      rw [pageDiffers_eq_mask, bne]
      split
      next h => rw [beq_iff_eq.2 h]; rfl
      next h => rw [beq_eq_false_iff_ne.2 h]; rfl
    exact congrArg (fun t => (s.setPC _).addCycles t) (htime _ _)

end Transfers

/-! ### The descriptors (30_encoding R144, 40_engine R173) -/

theorem desc_jmp_abs (w : Word) : (Instr.jmp (.abs w)).desc = row .abs 3 3 := by rw [Instr.desc, Instr.opcode]; rfl
theorem desc_jmp_ind (w : Word) : (Instr.jmp (.ind w)).desc = row .ind 3 5 := by rw [Instr.desc, Instr.opcode]; rfl
theorem desc_jsr (w : Word) : (Instr.jsr w).desc = row .abs 3 6 := by rw [Instr.desc, Instr.opcode]; rfl
theorem desc_brk : Instr.brk.desc = row .imp 2 7 := by decide

/-- Every return is one byte and six cycles. -/
theorem desc_return : ∀ i ∈ [Instr.rts, .rti], i.desc = row .imp 1 6 := by
  decide

/-- The eight branches with an offset. -/
def branches (o : Byte) : List Instr := [.bcc o, .bcs o, .beq o, .bmi o, .bne o, .bpl o, .bvc o, .bvs o]

/-- Every branch is two bytes and two cycles, with the branch's bonuses. -/
theorem desc_branch (o : Byte) : ∀ i ∈ branches o, i.desc = rowB .rel 2 2 := by
  simp only [branches, List.forall_mem_cons, List.not_mem_nil, false_implies, implies_true, and_true]
  refine ⟨?_, ?_, ?_, ?_, ?_, ?_, ?_, ?_⟩ <;> (rw [Instr.desc, Instr.opcode]; rfl)

/-- A branch taken where bit `k` of P is set, by the bit's mask. -/
theorem branchOp_flag_set (o : Byte) (s : State) (i : Instr) (hi : i ∈ branches o) (k : Nat) (hk : k < 8) :
    branchOp i.desc (s.p.getLsbD k) o s = Claims.branch (s.p &&& BitVec.twoPow 8 k != 0) o s := by
  rw [desc_branch o i hi, branchOp_rowB, getLsbD_eq_mask s.p k hk]

/-- A branch taken where bit `k` of P is clear. -/
theorem branchOp_flag_clear (o : Byte) (s : State) (i : Instr) (hi : i ∈ branches o) (k : Nat) (hk : k < 8) :
    branchOp i.desc (!s.p.getLsbD k) o s = Claims.branch (s.p &&& BitVec.twoPow 8 k == 0) o s := by
  rw [desc_branch o i hi, branchOp_rowB, getLsbD_eq_mask s.p k hk, bne, Bool.not_not]

/-! ### The statements -/

/-- Settles O19: each form goes to its target, and the pointer reads of the indirect form do not depend on PC. -/
theorem jumpResults : Obligations.JumpResults := by
  unfold Obligations.JumpResults
  intro w s
  refine ⟨?abs, ?ind, rfl, rfl⟩
  case abs =>
    rw [exec, execJmp, desc_jmp_abs, impliedOp_jmp]
    rfl
  case ind =>
    rw [exec, execJmp, desc_jmp_ind, impliedOp_jmp]
    rfl

/-- Settles O20: JSR is one word pushed, the address of its last byte, and RTS is one word pulled, plus 1. -/
theorem subroutineResults : Obligations.SubroutineResults := by
  unfold Obligations.SubroutineResults
  intro w s
  refine ⟨?jsr, ?rts, rfl, rfl⟩
  case jsr =>
    have hlast : s.pc + 3 - 1 = s.pc + 2 := add_sub_assoc ..
    rw [← hlast, exec, execJsr, desc_jsr, impliedOp_row_eq, State.pushWord_eq_pushedRam]
    rfl
  case rts =>
    rw [exec, execRts, desc_return _ (by simp), impliedOp_row_eq, State.pullWord_eq_top]
    rfl

/-- Settles O21: BRK is the trap at 0xFFFE from the address after its padding byte, and RTI the return from it. -/
theorem trapResults : Obligations.TrapResults := by
  unfold Obligations.TrapResults
  refine ⟨fun s => ⟨?brk, ?rti⟩, rfl, rfl, rfl⟩
  case brk =>
    rw [exec, execBrk, desc_brk, impliedOp_row_eq, State.takeTrap_eq_pushedRam _ irqVector (by decide) (by decide)]
    rfl
  case rti =>
    rw [exec, execRti, desc_return _ (by simp), impliedOp_row_eq, State.returnFromTrap_eq_top]
    rfl

/-- Settles O22: each branch is `Claims.branch` on its flag, which is one bit of P. -/
theorem branchResults : Obligations.BranchResults := by
  unfold Obligations.BranchResults
  intro o s
  refine ⟨?bcc, rfl, ?bcs, rfl, ?beq, rfl, ?bmi, rfl, ?bne, rfl, ?bpl, rfl, ?bvc, rfl, ?bvs, rfl⟩
  case bcc => exact congrArg _ (branchOp_flag_clear o s (.bcc o) (by simp [branches]) 0 (by decide))
  case bcs => exact congrArg _ (branchOp_flag_set o s (.bcs o) (by simp [branches]) 0 (by decide))
  case beq => exact congrArg _ (branchOp_flag_set o s (.beq o) (by simp [branches]) 1 (by decide))
  case bmi => exact congrArg _ (branchOp_flag_set o s (.bmi o) (by simp [branches]) 7 (by decide))
  case bne => exact congrArg _ (branchOp_flag_clear o s (.bne o) (by simp [branches]) 1 (by decide))
  case bpl => exact congrArg _ (branchOp_flag_clear o s (.bpl o) (by simp [branches]) 7 (by decide))
  case bvc => exact congrArg _ (branchOp_flag_clear o s (.bvc o) (by simp [branches]) 6 (by decide))
  case bvs => exact congrArg _ (branchOp_flag_set o s (.bvs o) (by simp [branches]) 6 (by decide))

end Sys2Proof.Machine

/-! ## Flag instructions and NOP (46_flags_nop): one bit of P written and nothing else, and the statement O23 -/

namespace Sys2Proof.Machine

/-- The seven flag instructions and NOP. -/
def flagInstrs : List Instr := [.clc, .cld, .cli, .clv, .sec, .sed, .sei, .nop]

/-- Every one of them is one byte and two cycles (30_encoding R144, 40_engine R173). -/
theorem desc_flagInstr : ∀ i ∈ flagInstrs, i.desc = row .imp 1 2 := by
  decide

/-- A flag instruction writes bit `k` of P after PC and the cycles have moved, and nothing else (46_flags_nop
R300–R306). -/
theorem impliedOp_withBit (s : State) (i : Instr) (hi : i ∈ flagInstrs) (k : Nat) (b : Bool) :
    impliedOp i.desc (fun t => t.setP (withBit t.p k b)) s = { Claims.implied 2 s with p := withBit s.p k b } := by
  rw [desc_flagInstr i hi, impliedOp_row _ _ fun _ _ => rfl]
  rfl

/-! ### The statement -/

/-- Settles O23: each flag instruction writes one bit of P (C is bit 0, I bit 2, D bit 3, V bit 6), which is the
statement's mask, and NOP has no operation besides moving PC and the cycles. -/
theorem flagResults : Obligations.FlagResults := by
  unfold Obligations.FlagResults
  refine ⟨fun s => ⟨?clc, ?cld, ?cli, ?clv, ?sec, ?sed, ?sei, ?nop⟩, rfl, rfl, rfl, rfl, rfl, rfl, rfl, rfl⟩
  case clc => exact congrArg Host.Outcome.next (impliedOp_withBit s .clc (by simp [flagInstrs]) 0 false)
  case cld => exact congrArg Host.Outcome.next (impliedOp_withBit s .cld (by simp [flagInstrs]) 3 false)
  case cli => exact congrArg Host.Outcome.next (impliedOp_withBit s .cli (by simp [flagInstrs]) 2 false)
  case clv => exact congrArg Host.Outcome.next (impliedOp_withBit s .clv (by simp [flagInstrs]) 6 false)
  case sec => exact congrArg Host.Outcome.next (impliedOp_withBit s .sec (by simp [flagInstrs]) 0 true)
  case sed => exact congrArg Host.Outcome.next (impliedOp_withBit s .sed (by simp [flagInstrs]) 3 true)
  case sei => exact congrArg Host.Outcome.next (impliedOp_withBit s .sei (by simp [flagInstrs]) 2 true)
  case nop => rw [exec, execNop, desc_flagInstr _ (by simp [flagInstrs]), impliedOp_row _ _ fun _ _ => rfl, id]

end Sys2Proof.Machine

/-! ## The PPU's registers (50_ppu_registers): one rule per register, and the statements O47–O49 -/

namespace Sys2Proof.Machine

section RegisterAccess

variable (s : State) (addr : Word) (d : Byte)

/-! ### One access after the catch-up (20_memory R82, 50_ppu R320) -/

/-- The register an address of the window names is its remainder by 8. -/
theorem register_eq {k : Nat} (h : addr.toNat % 8 = k) : addr.setWidth 3 = BitVec.ofNat 3 k := by
  rw [← BitVec.ofNat_toNat, ← h]
  apply BitVec.eq_of_toNat_eq
  rw [BitVec.toNat_ofNat, BitVec.toNat_ofNat, Nat.mod_mod]

/-- A read of register `k`, from what the PPU answers after the catch-up. -/
theorem State.read_register {k : Nat} {v : Byte} {q : Ppu} (hw : 0x2000 ≤ addr.toNat ∧ addr.toNat < 0x4000)
    (hk : addr.toNat % 8 = k)
    (hq : s.catchUp.ppu.readReg s.catchUp.cart s.catchUp.params (BitVec.ofNat 3 k) = (v, q)) :
    s.read addr = (v, { s.catchUp with ppu := q }) := by
  rw [State.read_ppu s addr hw, State.ppuRead, register_eq addr hk, hq]

/-- A write of register `k`, from what the PPU and the cartridge are after the catch-up and the write. -/
theorem State.write_register {k : Nat} {q : Ppu} {cart : Option Cartridge}
    (hw : 0x2000 ≤ addr.toNat ∧ addr.toNat < 0x4000) (hk : addr.toNat % 8 = k)
    (hq : s.catchUp.ppu.writeReg s.catchUp.cart s.catchUp.params (BitVec.ofNat 3 k) d = (q, cart)) :
    s.write addr d = { s.catchUp with ppu := q, cart := cart } := by
  rw [State.write_ppu s addr d hw, State.ppuWrite, register_eq addr hk, hq]

end RegisterAccess

section Fields

variable (t : BitVec 15) (d : Byte)

/-! ### The fields of `t` (50_ppu R323, R336, R337, R340, R341)

Every register write of `t` masks a field out and ORs the new one in; a field is kept where the mask is all ones
and the new bits are zero, and it is the new bits' where the mask is zero. -/

theorem extractLsb'_masked_of_kept {w start len : Nat} {x mask y : BitVec w}
    (hm : mask.extractLsb' start len = BitVec.allOnes len) (hy : y.extractLsb' start len = 0) :
    ((x &&& mask) ||| y).extractLsb' start len = x.extractLsb' start len := by
  rw [BitVec.extractLsb'_or, BitVec.extractLsb'_and, hm, hy, BitVec.and_allOnes]
  exact BitVec.or_zero

theorem extractLsb'_masked_of_put {w start len : Nat} {x mask y : BitVec w} {z : BitVec len}
    (hm : mask.extractLsb' start len = 0) (hy : y.extractLsb' start len = z) :
    ((x &&& mask) ||| y).extractLsb' start len = z := by
  rw [BitVec.extractLsb'_or, BitVec.extractLsb'_and, hm, hy]
  exact (congrArg (· ||| z) BitVec.and_zero).trans BitVec.zero_or

/-- `t` after a write of `$2000`. -/
def ctrlT : BitVec 15 := (t &&& 0x73FF) ||| ((d &&& 0x03).setWidth 15 <<< 10)

/-- `t` after the first write of `$2005`. -/
def scrollXT : BitVec 15 := (t &&& 0x7FE0) ||| (d >>> 3).setWidth 15

/-- `t` after the second write of `$2005`. -/
def scrollYT : BitVec 15 :=
  (((t &&& 0x0FFF) ||| ((d &&& 0x07).setWidth 15 <<< 12)) &&& 0x7C1F) ||| ((d &&& 0xF8).setWidth 15 <<< 2)

/-- `t` after the first write of `$2006`. -/
def addrHighT : BitVec 15 := (t &&& 0x00FF) ||| ((d &&& 0x3F).setWidth 15 <<< 8)

/-- `t` after the second write of `$2006`. -/
def addrLowT : BitVec 15 := (t &&& 0x7F00) ||| d.setWidth 15

theorem ctrlT_fields : (ctrlT t d).extractLsb' 10 2 = d.extractLsb' 0 2 ∧
    (ctrlT t d).extractLsb' 0 10 = t.extractLsb' 0 10 ∧ (ctrlT t d).extractLsb' 12 3 = t.extractLsb' 12 3 := by
  have hy : ∀ d : Byte, ((d &&& 0x03).setWidth 15 <<< 10).extractLsb' 10 2 = d.extractLsb' 0 2 ∧
      ((d &&& 0x03).setWidth 15 <<< 10).extractLsb' 0 10 = 0 ∧
      ((d &&& 0x03).setWidth 15 <<< 10).extractLsb' 12 3 = 0 := by decide +kernel
  obtain ⟨hput, hlow, hhigh⟩ := hy d
  exact ⟨extractLsb'_masked_of_put rfl hput, extractLsb'_masked_of_kept rfl hlow,
    extractLsb'_masked_of_kept rfl hhigh⟩

theorem scrollXT_fields : (scrollXT t d).extractLsb' 0 5 = d.extractLsb' 3 5 ∧
    (scrollXT t d).extractLsb' 5 10 = t.extractLsb' 5 10 := by
  have hy : ∀ d : Byte, ((d >>> 3).setWidth 15).extractLsb' 0 5 = d.extractLsb' 3 5 ∧
      ((d >>> 3).setWidth 15).extractLsb' 5 10 = 0 := by decide +kernel
  obtain ⟨hput, hhigh⟩ := hy d
  exact ⟨extractLsb'_masked_of_put rfl hput, extractLsb'_masked_of_kept rfl hhigh⟩

theorem scrollYT_fields : (scrollYT t d).extractLsb' 12 3 = d.extractLsb' 0 3 ∧
    (scrollYT t d).extractLsb' 5 5 = d.extractLsb' 3 5 ∧
    (scrollYT t d).extractLsb' 0 5 = t.extractLsb' 0 5 ∧
    (scrollYT t d).extractLsb' 10 2 = t.extractLsb' 10 2 := by
  have hfine : ∀ d : Byte, ((d &&& 0x07).setWidth 15 <<< 12).extractLsb' 12 3 = d.extractLsb' 0 3 ∧
      ((d &&& 0x07).setWidth 15 <<< 12).extractLsb' 0 5 = 0 ∧
      ((d &&& 0x07).setWidth 15 <<< 12).extractLsb' 10 2 = 0 := by decide +kernel
  have hcoarse : ∀ d : Byte, ((d &&& 0xF8).setWidth 15 <<< 2).extractLsb' 5 5 = d.extractLsb' 3 5 ∧
      ((d &&& 0xF8).setWidth 15 <<< 2).extractLsb' 12 3 = 0 ∧
      ((d &&& 0xF8).setWidth 15 <<< 2).extractLsb' 0 5 = 0 ∧
      ((d &&& 0xF8).setWidth 15 <<< 2).extractLsb' 10 2 = 0 := by decide +kernel
  obtain ⟨hput, hlow, hmid⟩ := hfine d
  obtain ⟨hput', hhigh', hlow', hmid'⟩ := hcoarse d
  exact ⟨(extractLsb'_masked_of_kept rfl hhigh').trans (extractLsb'_masked_of_put rfl hput),
    extractLsb'_masked_of_put rfl hput',
    (extractLsb'_masked_of_kept rfl hlow').trans (extractLsb'_masked_of_kept rfl hlow),
    (extractLsb'_masked_of_kept rfl hmid').trans (extractLsb'_masked_of_kept rfl hmid)⟩

theorem addrHighT_fields : (addrHighT t d).extractLsb' 8 6 = d.extractLsb' 0 6 ∧
    (addrHighT t d).getLsbD 14 = false ∧ (addrHighT t d).extractLsb' 0 8 = t.extractLsb' 0 8 := by
  have hy : ∀ d : Byte, ((d &&& 0x3F).setWidth 15 <<< 8).extractLsb' 8 6 = d.extractLsb' 0 6 ∧
      ((d &&& 0x3F).setWidth 15 <<< 8).extractLsb' 14 1 = 0 ∧
      ((d &&& 0x3F).setWidth 15 <<< 8).extractLsb' 0 8 = 0 := by decide +kernel
  obtain ⟨hput, htop, hlow⟩ := hy d
  refine ⟨extractLsb'_masked_of_put rfl hput, ?_, extractLsb'_masked_of_kept rfl hlow⟩
  have hbit : (addrHighT t d).extractLsb' 14 1 = 0 := extractLsb'_masked_of_put rfl htop
  calc (addrHighT t d).getLsbD 14
    _ = ((addrHighT t d).extractLsb' 14 1).getLsbD 0 := (BitVec.getLsbD_extractLsb' 14 1 _ 0).symm
    _ = false := by rw [hbit]; rfl

theorem addrLowT_fields : (addrLowT t d).extractLsb' 0 8 = d ∧
    (addrLowT t d).extractLsb' 8 7 = t.extractLsb' 8 7 := by
  have hy : ∀ d : Byte, (d.setWidth 15).extractLsb' 0 8 = d ∧ (d.setWidth 15).extractLsb' 8 7 = 0 := by
    decide +kernel
  obtain ⟨hput, hhigh⟩ := hy d
  exact ⟨extractLsb'_masked_of_put rfl hput, extractLsb'_masked_of_kept rfl hhigh⟩

end Fields

section RegisterRules

variable (cart : Option Cartridge) (params : Params) (p : Ppu) (d : Byte)

/-! ### Reads (50_ppu R330, R331, R345, R348) -/

/-- A bit of a register as the statements write it. -/
theorem bitByte_shiftLeft_eq_flag (k : Nat) (b : Bool) : bitByte b <<< k = Claims.flag k b := by
  cases b with
  | false => exact BitVec.zero_shiftLeft k
  | true => rfl

/-- A status read clears vblank and the toggle; the line falls with vblank, so no edge is scheduled. -/
theorem Ppu.afterStatusRead_eq :
    p.afterStatusRead params = { p with vblank := false, w := false, nmiPrevious := false } := by
  have hline : ({ p with vblank := false, w := false } : Ppu).nmiLine = false := Bool.and_false _
  rw [Ppu.afterStatusRead, Ppu.nmiChange, hline]
  rfl

theorem Ppu.readReg_status : p.readReg cart params 2 =
    ((p.latch &&& 0x1F) ||| Claims.flag 5 p.spriteOverflow ||| Claims.flag 6 p.sprite0Hit
        ||| Claims.flag 7 p.vblank,
      { p with vblank := false, w := false, nmiPrevious := false }) := by
  rw [← p.afterStatusRead_eq params, ← bitByte_shiftLeft_eq_flag, ← bitByte_shiftLeft_eq_flag,
    ← bitByte_shiftLeft_eq_flag]
  rfl

/-- The write-only registers. -/
theorem Ppu.readReg_writeOnly {k : Nat} (hk : k = 0 ∨ k = 1 ∨ k = 3 ∨ k = 5 ∨ k = 6) :
    p.readReg cart params (BitVec.ofNat 3 k) = (0x00, p) := by
  rcases hk with rfl | rfl | rfl | rfl | rfl <;> rfl

theorem Ppu.dataAddr_eq : p.dataAddr = BitVec.ofNat 14 p.v.toNat :=
  (BitVec.ofNat_toNat 14 p.v).symm

theorem Ppu.vStep_eq : p.vStep = if p.ctrl &&& 0x04 = 0 then 1 else 32 := by
  have hbit : p.ctrl.getLsbD 2 = (p.ctrl &&& 0x04 != 0) := getLsbD_eq_mask p.ctrl 2 (by decide)
  rw [Ppu.vStep, hbit]
  by_cases h : p.ctrl &&& 0x04 = 0
  · rw [h]
    rfl
  · rw [if_neg h, if_pos (bne_iff_ne.2 h)]

/-- Below 0x3F00 a data read answers the buffer and fetches the byte at `v` into it. -/
theorem Ppu.readReg_data_below (h : p.dataAddr.toNat < 0x3F00) : p.readReg cart params 7 =
    (p.readBuffer, { p with readBuffer := p.busRead cart params p.dataAddr, v := p.v + p.vStep }) := by
  have hvalue : p.dataValue cart params = p.readBuffer := if_pos h
  have hreload : p.bufferReload cart params = p.busRead cart params p.dataAddr := if_pos h
  rw [← hvalue, ← hreload]
  rfl

/-- From 0x3F00 on a data read answers the palette entry and fetches the nametable byte under it. -/
theorem Ppu.readReg_data_palette (h : 0x3F00 ≤ p.dataAddr.toNat) : p.readReg cart params 7 =
    (p.busRead cart params p.dataAddr,
      { p with readBuffer := p.busRead cart params (p.dataAddr - 0x1000), v := p.v + p.vStep }) := by
  have hvalue : p.dataValue cart params = p.busRead cart params p.dataAddr := if_neg (by omega)
  have hreload : p.bufferReload cart params = p.busRead cart params (p.dataAddr - 0x1000) := if_neg (by omega)
  rw [← hvalue, ← hreload]
  rfl

/-! ### Writes (50_ppu R321, R323, R336, R337, R340, R341, R346) -/

/-- A PPU bus write moves neither `v` nor its step. -/
theorem Ppu.busWrite_v_vStep (a : BitVec 14) : (p.busWrite cart params a d).1.v = p.v ∧
    (p.busWrite cart params a d).1.vStep = p.vStep := by
  unfold Ppu.busWrite
  split
  · exact ⟨rfl, rfl⟩
  split <;> exact ⟨rfl, rfl⟩

theorem Ppu.writeData_eq : p.writeData cart params d =
    ({ (p.busWrite cart params p.dataAddr d).1 with v := p.v + p.vStep },
      (p.busWrite cart params p.dataAddr d).2) := by
  obtain ⟨hv, hstep⟩ := p.busWrite_v_vStep cart params d p.dataAddr
  rw [Ppu.writeData, Ppu.vIncrement, hv, hstep]

/-- A control write runs the edge detector on the line of the new bit 7. -/
theorem Ppu.writeReg_ctrl : p.writeReg cart params 0 d =
    ({ p with
        latch := d, ctrl := d, t := ctrlT p.t d
        nmiDelay := if (d &&& 0x80 != 0 && p.vblank) && !p.nmiPrevious then params.nmiDelayTicks else p.nmiDelay
        nmiPrevious := d &&& 0x80 != 0 && p.vblank }, cart) := by
  rw [← getLsbD_seven]
  rfl

theorem Ppu.writeReg_scroll_first (h : p.w = false) : p.writeReg cart params 5 d =
    ({ p with latch := d, t := scrollXT p.t d, fineX := d.extractLsb' 0 3, w := true }, cart) := by
  rw [← BitVec.setWidth_eq_extractLsb' (by decide)]
  exact congrArg (·, cart) (if_neg (by simp [h]))

theorem Ppu.writeReg_scroll_second (h : p.w = true) : p.writeReg cart params 5 d =
    ({ p with latch := d, t := scrollYT p.t d, w := false }, cart) :=
  congrArg (·, cart) (if_pos h)

theorem Ppu.writeReg_addr_first (h : p.w = false) : p.writeReg cart params 6 d =
    ({ p with latch := d, t := addrHighT p.t d, w := true }, cart) :=
  congrArg (·, cart) (if_neg (by simp [h]))

theorem Ppu.writeReg_addr_second (h : p.w = true) : p.writeReg cart params 6 d =
    ({ p with latch := d, t := addrLowT p.t d, v := addrLowT p.t d, w := false }, cart) :=
  congrArg (·, cart) (if_pos h)

end RegisterRules

/-! ### The statements -/

/-- Settles O47: one rule of the PPU's read port per register, after the catch-up. -/
theorem registerReads : Obligations.RegisterReads := by
  unfold Obligations.RegisterReads
  rintro s c a hlo hhi rfl
  refine ⟨fun h => ?status, fun h => ?oam, fun h => ?writeOnly⟩
  case status => exact State.read_register s a ⟨hlo, hhi⟩ h (Ppu.readReg_status _ _ _)
  case oam => exact State.read_register s a ⟨hlo, hhi⟩ h rfl
  case writeOnly => exact State.read_register s a ⟨hlo, hhi⟩ rfl (Ppu.readReg_writeOnly _ _ _ h)

/-- Settles O48: the address is `v`'s low 14 bits, the two ranges are the two branches of a read, and a bus write
leaves `v` for the increment. -/
theorem dataPort : Obligations.DataPort := by
  unfold Obligations.DataPort
  rintro s c a d at' next hlo hhi h rfl rfl rfl
  rw [← Ppu.dataAddr_eq, ← Ppu.vStep_eq]
  refine ⟨fun hat => ?below, fun hat => ?palette, ?write⟩
  case below => exact State.read_register s a ⟨hlo, hhi⟩ h (Ppu.readReg_data_below _ _ _ hat)
  case palette => exact State.read_register s a ⟨hlo, hhi⟩ h (Ppu.readReg_data_palette _ _ _ hat)
  case write => exact State.write_register s a d ⟨hlo, hhi⟩ h (Ppu.writeData_eq _ _ _ d)

/-- Settles O49: one rule of the PPU's write port per register, after the catch-up; the two-step registers split
on the toggle, and the fields of `t` are those of the formula each rule names. -/
theorem registerWrites : Obligations.RegisterWrites := by
  unfold Obligations.RegisterWrites
  rintro s c u a d hlo hhi rfl rfl
  have hwrite := fun k q => State.write_register (k := k) (q := q) (cart := s.cart) s a d ⟨hlo, hhi⟩
  refine ⟨?latch, fun h => ?ctrl, fun h => hwrite _ _ h rfl, fun h => hwrite _ _ h rfl,
    fun h => hwrite _ _ h rfl, fun h => hwrite _ _ h rfl, fun h hw => ?scrollFirst, fun h hw => ?scrollSecond,
    fun h hw => ?addrFirst, fun h hw => ?addrSecond⟩
  case latch =>
    rw [State.write_ppu s a d ⟨hlo, hhi⟩]
    exact (Ppu.writeReg_keeps _ _ _ _ _).1
  case ctrl =>
    rw [hwrite _ _ h (Ppu.writeReg_ctrl _ _ _ d)]
    exact ⟨rfl, ctrlT_fields _ d⟩
  case scrollFirst =>
    rw [hwrite _ _ h (Ppu.writeReg_scroll_first _ _ _ d hw)]
    exact ⟨rfl, scrollXT_fields _ d⟩
  case scrollSecond =>
    rw [hwrite _ _ h (Ppu.writeReg_scroll_second _ _ _ d hw)]
    exact ⟨rfl, scrollYT_fields _ d⟩
  case addrFirst =>
    rw [hwrite _ _ h (Ppu.writeReg_addr_first _ _ _ d hw)]
    exact ⟨rfl, addrHighT_fields _ d⟩
  case addrSecond =>
    rw [hwrite _ _ h (Ppu.writeReg_addr_second _ _ _ d hw)]
    exact ⟨rfl, addrLowT_fields _ d⟩

end Sys2Proof.Machine

/-! ## The ROM load (52_cartridge): its checks, the cartridge of an image, and the statement O59 -/

namespace Sys2Proof.Machine

/-! ### Bank counts and the header's flag bytes (52_cartridge R401–R404) -/

/-- The mask test of R401 accepts the powers of two. -/
theorem isPowerOfTwo_iff (n : Nat) : isPowerOfTwo n = true ↔ Claims.bankCount n := by
  rw [isPowerOfTwo, Bool.and_eq_true, bne_iff_ne, beq_iff_eq]
  exact Nat.ne_zero_and_sub_one_eq_zero_iff_isPowerOfTwo

theorem bankCount_pos {n : Nat} (h : Claims.bankCount n) : 0 < n := by
  obtain ⟨k, rfl⟩ := h
  exact Nat.two_pow_pos k

/-- The load refuses the bank counts exactly where PRG's is no power of two, or CHR's is neither one nor 0. -/
theorem banksRefused_iff (prg chr : Nat) : (!isPowerOfTwo prg || (chr != 0 && !isPowerOfTwo chr)) = true ↔
    ¬ (Claims.bankCount prg ∧ (chr = 0 ∨ Claims.bankCount chr)) := by
  rw [← isPowerOfTwo_iff, ← isPowerOfTwo_iff, not_and_or, not_or]
  simp

/-- A choice by a bit of a byte is the opposite choice by its mask. -/
theorem ite_getLsbD_eq_mask {α : Type} (v : Byte) (k : Nat) (hk : k < 8) (a b : α) :
    (if v.getLsbD k then a else b) = if v &&& BitVec.twoPow 8 k = 0 then b else a := by
  rw [getLsbD_eq_mask v k hk, ← ite_not (v &&& BitVec.twoPow 8 k = 0)]
  exact if_congr bne_iff_ne rfl rfl

theorem imageMirroring_eq (f6 : Byte) : imageMirroring f6 =
    if f6 &&& 0x08 ≠ 0 then .fourScreen else if f6 &&& 0x01 = 0 then .horizontal else .vertical := by
  rw [imageMirroring, ite_getLsbD_eq_mask f6 3 (by decide), ite_getLsbD_eq_mask f6 0 (by decide), ite_not]
  rfl

section Image

variable (image : List Byte)

/-- The mapper number is 0 exactly where both of its nibbles are. -/
theorem imageMapper_eq_zero :
    imageMapper image = 0 ↔ image.getD 6 0 &&& 0xF0 = 0 ∧ image.getD 7 0 &&& 0xF0 = 0 := by
  have hlow : ∀ f6 : Byte, f6 >>> 4 = 0 ↔ f6 &&& 0xF0 = 0 := by decide +kernel
  rw [imageMapper, imageByte, imageByte, and_comm, ← hlow (image.getD 6 0)]
  exact BitVec.or_eq_zero_iff

/-- PRG follows the header and, where there is one, the trainer. -/
theorem imagePrgStart_eq : imagePrgStart image = if image.getD 6 0 &&& 0x04 = 0 then 16 else 528 := by
  rw [imagePrgStart, ite_getLsbD_eq_mask _ 2 (by decide)]
  exact apply_ite (16 + ·) _ _ _

/-! ### The checks in their order (52_cartridge R401) -/

open Classical in
/-- The load as the chain of the statement's conditions. -/
theorem loadCartridge_some : loadCartridge (some image) =
    if ¬ 16 ≤ image.length then .error .illegalSize
    else if ¬ image.take 4 = [0x4E, 0x45, 0x53, 0x1A] then .error .invalidSignature
    else if ¬ (image.getD 6 0 &&& 0xF0 = 0 ∧ image.getD 7 0 &&& 0xF0 = 0) then .error .unsupportedMapper
    else if ¬ (Claims.bankCount (image.getD 4 0).toNat ∧
        ((image.getD 5 0).toNat = 0 ∨ Claims.bankCount (image.getD 5 0).toNat)) then .error .illegalSize
    else if ¬ imagePrgStart image + 16384 * (image.getD 4 0).toNat + 8192 * (image.getD 5 0).toNat ≤ image.length
      then .error .incompleteImage
    else .ok (cartridgeOf image) :=
  if_congr Nat.not_le.symm rfl <| if_congr Iff.rfl rfl <| if_congr (imageMapper_eq_zero image).not rfl <|
    if_congr (banksRefused_iff _ _) rfl <| if_congr Nat.not_le.symm rfl rfl

/-! ### The cartridge of an image (52_cartridge R402–R406) -/

/-- The memory of a byte string is canonical and inside any size that holds the string. -/
theorem Mem.good_ofBytes (bs : List Byte) (n : Nat) (h : bs.length ≤ n) : (Mem.ofBytes 0 bs).good n := by
  obtain ⟨hwf, hrange⟩ := Mem.wf_ofBytes bs 0
  refine ⟨hwf, fun c hc => ?_⟩
  have hlt := (hrange c hc).2
  omega

/-- The memory of `n` bytes of an image from `start` on. -/
theorem Mem.read_ofBytes_slice (start n k : Nat) :
    (Mem.ofBytes 0 ((image.drop start).take n)).read k = if k < n then image.getD (start + k) 0 else 0 := by
  rw [Mem.read_ofBytes, if_pos (Nat.zero_le k), Nat.sub_zero, List.getD_eq_getElem?_getD, List.getElem?_take,
    List.getElem?_drop, apply_ite (Option.getD · 0), ← List.getD_eq_getElem?_getD]
  rfl

theorem cartridgeOf_prgMask (h : 0 < (image.getD 4 0).toNat) :
    (cartridgeOf image).prgMask + 1 = 16384 * (image.getD 4 0).toNat :=
  Nat.sub_add_cancel (Nat.mul_pos (by decide) h)

theorem cartridgeOf_prg_read (k : Nat) (h : k < 16384 * (image.getD 4 0).toNat) :
    (cartridgeOf image).prg.read k = image.getD (imagePrgStart image + k) 0 :=
  (Mem.read_ofBytes_slice image _ _ k).trans (if_pos h)

theorem cartridgeOf_chrIsRam : (cartridgeOf image).chrIsRam = true ↔ (image.getD 5 0).toNat = 0 :=
  beq_iff_eq.trans (Nat.mul_eq_zero.trans (or_iff_right (by decide)))

/-- The CHR memory's size: that of the image's CHR ROM, or 8 KiB of CHR RAM where it has none. -/
theorem cartridgeOf_chrMask : (cartridgeOf image).chrMask + 1 =
    if (image.getD 5 0).toNat = 0 then 8192 else 8192 * (image.getD 5 0).toNat := by
  have hmask : (cartridgeOf image).chrMask =
      (if (image.getD 5 0).toNat = 0 then 8192 else 8192 * (image.getD 5 0).toNat) - 1 :=
    congrArg (· - 1) (if_congr (cartridgeOf_chrIsRam image) rfl rfl)
  rw [hmask]
  split <;> omega

/-- CHR follows PRG in the image; CHR RAM, and what lies past CHR ROM, reads 0. -/
theorem cartridgeOf_chr_read (k : Nat) : (cartridgeOf image).chr.read k =
    if k < 8192 * (image.getD 5 0).toNat then
      image.getD (imagePrgStart image + 16384 * (image.getD 4 0).toNat + k) 0 else 0 := by
  rw [← Mem.read_ofBytes_slice, ← List.drop_drop]
  rfl

/-- Each memory of a loaded cartridge is a slice no longer than its mask allows. -/
theorem cartridgeOf_inv : (cartridgeOf image).Inv where
  prg := Mem.good_ofBytes _ _ ((List.length_take_le _ _).trans le_tsub_add)
  chr := by
    refine Mem.good_ofBytes _ _ ((List.length_take_le _ _).trans ?_)
    rw [cartridgeOf_chrMask]
    change 8192 * (image.getD 5 0).toNat ≤ _
    split <;> omega

end Image

/-! ### The load on the console (52_cartridge R401, R408) -/

/-- A load that fails, while no `run` call is open, leaves no cartridge. -/
theorem State.loadImage_error {s : State} (hs : s.runStart = none) {image : Option (List Byte)} {e : RomError}
    (h : loadCartridge image = .error e) : s.loadImage image = .next (some e, { s with cart := none }) := by
  rw [State.loadImage, State.hostOp, hs, h]

/-- A load that succeeds, while no `run` call is open, puts its cartridge in place. -/
theorem State.loadImage_ok {s : State} (hs : s.runStart = none) {image : Option (List Byte)} {c : Cartridge}
    (h : loadCartridge image = .ok c) : s.loadImage image = .next (none, { s with cart := some c }) := by
  rw [State.loadImage, State.hostOp, hs, h]

/-! ### The statement -/

/-- Settles O59: each answer is one exit of the chain of checks, and the cartridge's parts are slices of the
image. -/
theorem romLoad : Obligations.RomLoad := by
  unfold Obligations.RomLoad
  refine ⟨fun s hs => State.loadImage_error hs rfl, ?_⟩
  rintro s image f6 f7 prgBanks chrBanks start hs rfl rfl rfl rfl rfl
  rw [← imagePrgStart_eq]
  intro sized signed mapped banked whole
  have hload := loadCartridge_some image
  refine ⟨fun h => State.loadImage_error hs ?size, fun hsized h => State.loadImage_error hs ?signature,
    fun hsized hsigned h => State.loadImage_error hs ?mapper,
    fun hsized hsigned hmapped h => State.loadImage_error hs ?banks,
    fun hsized hsigned hmapped hbanked h => State.loadImage_error hs ?incomplete,
    fun hsized hsigned hmapped hbanked hwhole => ⟨cartridgeOf image, State.loadImage_ok hs ?passes,
      cartridgeOf_inv image, (imageMapper_eq_zero image).2 hmapped,
      cartridgeOf_prgMask image (bankCount_pos hbanked.1), cartridgeOf_prg_read image,
      cartridgeOf_chrIsRam image, cartridgeOf_chrMask image, cartridgeOf_chr_read image, imageMirroring_eq _⟩⟩
  case size => rw [hload, if_pos h]
  case signature => rw [hload, if_neg (not_not.2 hsized), if_pos h]
  case mapper => rw [hload, if_neg (not_not.2 hsized), if_neg (not_not.2 hsigned), if_pos h]
  case banks =>
    rw [hload, if_neg (not_not.2 hsized), if_neg (not_not.2 hsigned), if_neg (not_not.2 hmapped), if_pos h]
  case incomplete =>
    rw [hload, if_neg (not_not.2 hsized), if_neg (not_not.2 hsigned), if_neg (not_not.2 hmapped),
      if_neg (not_not.2 hbanked), if_pos h]
  case passes =>
    rw [hload, if_neg (not_not.2 hsized), if_neg (not_not.2 hsigned), if_neg (not_not.2 hmapped),
      if_neg (not_not.2 hbanked), if_neg (not_not.2 hwhole)]

end Sys2Proof.Machine

/-! ## Interrupt entry (60_exceptions): what sub-steps 1 and 2 of an iteration do where no stall is due and the IRQ
line is empty, and the statement O37 -/

namespace Sys2Proof.Machine

section InterruptEntry

variable {s : State}

/-- An iteration starts in every state that is not refused and has a cartridge (10_state R43, 52_cartridge R408). -/
theorem engineStep_eq_iteration (hr : s.refused = false) (hc : s.cart ≠ none) : engineStep s = iteration s := by
  obtain ⟨c, hc⟩ := Option.ne_none_iff_exists'.1 hc
  simp [engineStep, hr, hc]

/-! ### The stall block, the IRQ line and the interrupt check (40_engine R171, 60_exceptions R437, R439) -/

theorem State.stallBlock_of_stall_zero (h : s.stall = 0) : s.stallBlock = s := by
  rw [State.stallBlock, h, Nat.add_zero, ← h]

theorem State.sampleIrq_of_irqLine_nil (h : s.irqLine = []) : s.sampleIrq = s := by
  rw [State.sampleIrq, h]

/-- With no stall due and nothing on the IRQ line, the interrupt check is all that comes before the fetch. -/
theorem State.beforeFetch_eq_interruptCheck (hstall : s.stall = 0) (hline : s.irqLine = []) :
    s.beforeFetch = s.interruptCheck := by
  rw [State.beforeFetch, State.stallBlock_of_stall_zero hstall, State.sampleIrq_of_irqLine_nil hline]

theorem flagI_eq_false {p : Byte} (h : p &&& 0x04 = 0) : flagI p = false :=
  (getLsbD_eq_mask p 2 (by decide)).trans (bne_eq_false_iff_eq.2 h)

theorem State.interruptCheck_nmi (h : s.pending = .nmi) : s.interruptCheck = s.enterInterrupt nmiVector := by
  rw [State.interruptCheck, h]

/-- A pending IRQ is taken where I is clear. -/
theorem State.interruptCheck_irq (h : s.pending = .irq) (hi : s.p &&& 0x04 = 0) :
    s.interruptCheck = s.enterInterrupt irqVector := by
  rw [State.interruptCheck, h, flagI_eq_false hi]
  rfl

end InterruptEntry

/-- Interrupt entry at a vector in cartridge space is a trap, 7 cycles and the tag cleared (60_exceptions R440). -/
theorem State.enterInterrupt_eq_pushedRam (s : State) (v : Word) (h : 0x6000 ≤ v.toNat)
    (h' : 0x6000 ≤ (v + 1).toNat) : s.enterInterrupt v = { s with
      ram := Claims.pushedRam s.ram s.sp [hiByte s.pc, loByte s.pc, s.p ||| 0x10]
      sp := s.sp - 3, p := s.p ||| 0x04, pc := Claims.vector s v, cycles := s.cycles + 7, pending := .none } := by
  rw [State.enterInterrupt, State.takeTrap_eq_pushedRam _ v h h']
  rfl

/-! ### The statement -/

/-- Settles O37: entry is a trap at a vector in cartridge space, and the interrupt check of an iteration enters the
pending interrupt just before the fetch. -/
theorem interruptEntry : Obligations.InterruptEntry := by
  unfold Obligations.InterruptEntry
  refine ⟨?entry, ?handler⟩
  case entry =>
    rintro s v (rfl | rfl)
    · exact s.enterInterrupt_eq_pushedRam _ (by decide) (by decide)
    · exact s.enterInterrupt_eq_pushedRam _ (by decide) (by decide)
  case handler =>
    rintro s u v hr hc hstall hline htaken rfl
    have hcheck : s.interruptCheck = s.enterInterrupt v := by
      obtain ⟨hnmi, rfl⟩ | ⟨hirq, hi, rfl⟩ := htaken
      · exact State.interruptCheck_nmi hnmi
      · exact State.interruptCheck_irq hirq hi
    rw [engineStep_eq_iteration hr hc, iteration, State.beforeFetch_eq_interruptCheck hstall hline, hcheck]

end Sys2Proof.Machine

/-! ## Encoding (30_encoding): the opcode table entry by entry, and the statements O1–O5 -/

namespace Sys2Proof.Machine

section Decoding

/-- The entry of the opcode map for an opcode, a first operand byte and an operand word (30_encoding R144). -/
def opEntry (op b : Byte) (w : Word) : Instr :=
  ((opTable b w).getD (op.toNat / 16) []).getD (op.toNat % 16) .nop

variable {op b : Byte} {w : Word} {i : Instr} (rest : List Byte)

/-! ### The decoder by the number of operand bytes (30_encoding R141, R142) -/

theorem decode_noOperand (hmode : (desc op).mode.operandBytes = 0) :
    decode (op :: rest) = .ok (opEntry op 0 0, rest.drop ((desc op).length - 1)) := by
  simp only [decode, hmode, opEntry, decodeOp]
  rfl

theorem decode_byteOperand (hmode : (desc op).mode.operandBytes = 1) :
    decode (op :: b :: rest) = .ok (opEntry op b (mkWord 0 b), rest) := by
  simp only [decode, hmode, opEntry, decodeOp]

theorem decode_wordOperand (lo hi : Byte) (hmode : (desc op).mode.operandBytes = 2) :
    decode (op :: lo :: hi :: rest) = .ok (opEntry op lo (mkWord hi lo), rest) := by
  simp only [decode, hmode, opEntry, decodeOp]

/-! ### An instruction read back, by the number of its operand bytes -/

theorem decode_encode_implied (hmode : (desc op).mode.operandBytes = 0) (hlength : (desc op).length = 1)
    (hi : opEntry op 0 0 = i) : decode ([op] ++ rest) = .ok (i, rest) := by
  rw [← hi]
  exact (decode_noOperand rest hmode).trans (by rw [hlength]; rfl)

theorem decode_encode_byte (hmode : (desc op).mode.operandBytes = 1) (hi : opEntry op b (mkWord 0 b) = i) :
    decode ([op, b] ++ rest) = .ok (i, rest) := by
  rw [← hi]
  exact decode_byteOperand rest hmode

theorem decode_encode_word (hmode : (desc op).mode.operandBytes = 2) (hi : opEntry op (loByte w) w = i) :
    decode ([op, loByte w, hiByte w] ++ rest) = .ok (i, rest) := by
  rw [← hi]
  refine (decode_wordOperand rest _ _ hmode).trans ?_
  rw [mkWord_hiByte_loByte]

end Decoding

/-- The opcodes of the undocumented names that carry theirs (30_encoding R147). -/
theorem opEntry_kil : ∀ op ∈ kilOpcodes, (desc op).mode.operandBytes = 0 ∧ (desc op).length = 1 ∧
    opEntry op 0 0 = .kil op := by
  decide

theorem opEntry_anc (v : Byte) (w : Word) : ∀ op ∈ ancOpcodes, (desc op).mode.operandBytes = 1 ∧
    opEntry op v w = .anc op v := by
  simp only [ancOpcodes, List.forall_mem_cons, List.not_mem_nil, false_implies, implies_true, and_true]
  exact ⟨⟨rfl, rfl⟩, rfl, rfl⟩

theorem opEntry_nop_none : ∀ op ∈ nopOpcodes0, (desc op).mode.operandBytes = 0 ∧ (desc op).length = 1 ∧
    opEntry op 0 0 = .nopU op .none := by
  decide

theorem opEntry_nop_byte (v : Byte) (w : Word) : ∀ op ∈ nopOpcodes1, (desc op).mode.operandBytes = 1 ∧
    opEntry op v w = .nopU op (.byte v) := by
  simp only [nopOpcodes1, List.forall_mem_cons, List.not_mem_nil, false_implies, implies_true, and_true]
  refine ⟨?_, ?_, ?_, ?_, ?_, ?_, ?_, ?_, ?_, ?_, ?_, ?_, ?_, ?_⟩ <;> exact ⟨rfl, rfl⟩

theorem opEntry_nop_word (v : Byte) (w : Word) : ∀ op ∈ nopOpcodes2, (desc op).mode.operandBytes = 2 ∧
    opEntry op v w = .nopU op (.word w) := by
  simp only [nopOpcodes2, List.forall_mem_cons, List.not_mem_nil, false_implies, implies_true, and_true]
  refine ⟨?_, ?_, ?_, ?_, ?_, ?_, ?_⟩ <;> exact ⟨rfl, rfl⟩

section OpcodeMap

variable (b : Byte) (w : Word)

/-- The values of a function on the 256 bytes, sixteen to a row. -/
def byteRows {α : Type} (g : Byte → α) : List (List α) :=
  (List.range 16).map fun h => (List.range 16).map fun l => g (BitVec.ofNat 8 (16 * h + l))

/-- A property of the entries that is read off the opcode map row by row. -/
theorem opEntry_of_rows {α : Type} {f : Instr → α} {g : Byte → α}
    (h : (opTable b w).map (List.map f) = byteRows g) (op : Byte) : f (opEntry op b w) = g op := by
  have hrow : op.toNat / 16 < 16 := by omega
  have hcol : op.toNat % 16 < 16 := by omega
  have hop : BitVec.ofNat 8 (16 * (op.toNat / 16) + op.toNat % 16) = op := by
    rw [Nat.div_add_mod, BitVec.ofNat_toNat, BitVec.setWidth_eq]
  calc f (opEntry op b w)
    _ = (((opTable b w).map (List.map f)).getD (op.toNat / 16) []).getD (op.toNat % 16) (f .nop) := by
      rw [opEntry, ← List.getD_map (f := f), ← List.getD_map (f := List.map f)]
      rfl
    _ = g op := by
      rw [h, byteRows]
      simp [hrow, hcol, hop]

theorem opEntry_opcode : ∀ op, (opEntry op b w).opcode = op :=
  opEntry_of_rows b w (g := fun op => op) (by
    rfl)
theorem opEntry_wellFormed : ∀ op, (opEntry op b w).wellFormed = true :=
  opEntry_of_rows b w (g := fun op => true) (by
    rfl)

theorem opEntry_undocumented : ∀ op, Claims.undocumented (opEntry op b w) = !(desc op).documented :=
  opEntry_of_rows b w (by
    rfl)
/-- The operand bytes that an opcode's entry takes (30_encoding R141, R142); BRK's is the padding byte 0x00. -/
def entryBytes (op : Byte) : List Byte :=
  if op = 0x00 then [0x00]
  else match (desc op).mode.operandBytes with
    | 0 => []
    | 1 => [b]
    | _ => [loByte w, hiByte w]

theorem opEntry_operandBytes : ∀ op, (opEntry op b w).operandBytes = entryBytes b w op:=
  opEntry_of_rows b w (by
    rfl)

end OpcodeMap

/-! ### What a byte string decodes to (30_encoding R140–R142) -/

/-- A byte string, the instruction at its head and the bytes left, by the number of operand bytes read. -/
inductive Decoded : List Byte → Instr → List Byte → Prop where
  | implied (op : Byte) (tail : List Byte) (hmode : (desc op).mode.operandBytes = 0) :
      Decoded (op :: tail) (opEntry op 0 0) (tail.drop ((desc op).length - 1))
  | byte (op b : Byte) (rest : List Byte) (hmode : (desc op).mode.operandBytes = 1) :
      Decoded (op :: b :: rest) (opEntry op b (mkWord 0 b)) rest
  | word (op lo hi : Byte) (rest : List Byte) (hmode : (desc op).mode.operandBytes = 2) :
      Decoded (op :: lo :: hi :: rest) (opEntry op lo (mkWord hi lo)) rest

theorem decoded_of_decode {bytes rest : List Byte} {i : Instr} (h : decode bytes = .ok (i, rest)) :
    Decoded bytes i rest := by
  unfold decode at h
  split at h
  · cases h
  · next op tail =>
    split at h
    · next hmode =>
      cases h
      exact .implied op _ hmode
    · next hmode =>
      cases h
      exact .byte op _ _ hmode
    · next hmode =>
      cases h
      exact .word op _ _ _ hmode
    · cases h

/-- The bytes after an opcode are its operand bytes, but for BRK's padding byte, which is none. -/
theorem operandBytes_eq_length : ∀ op : Byte, op ≠ 0x00 → (desc op).mode.operandBytes = (desc op).length - 1 := by
  decide +kernel

theorem entryBytes_implied {op b : Byte} {w : Word} (h0 : op ≠ 0x00) (hmode : (desc op).mode.operandBytes = 0) :
    entryBytes b w op = [] := by
  rw [entryBytes, if_neg h0, hmode]
  rfl

theorem entryBytes_byte {op b : Byte} {w : Word} (hmode : (desc op).mode.operandBytes = 1) :
    entryBytes b w op = [b] := by
  have h0 : op ≠ 0x00 := by rintro rfl; cases hmode
  rw [entryBytes, if_neg h0, hmode]
  rfl

theorem entryBytes_word {op b : Byte} {w : Word} (hmode : (desc op).mode.operandBytes = 2) :
    entryBytes b w op = [loByte w, hiByte w] := by
  have h0 : op ≠ 0x00 := by rintro rfl; cases hmode
  rw [entryBytes, if_neg h0, hmode]
  rfl

theorem encode_opEntry (op b : Byte) (w : Word) : encode (opEntry op b w) = op :: entryBytes b w op := by
  rw [encode, opEntry_opcode, opEntry_operandBytes]

theorem opEntry_eq_brk_iff (op b : Byte) (w : Word) : opEntry op b w = .brk ↔ op = 0x00 := by
  constructor
  · intro h
    rw [← opEntry_opcode b w op, h]
    rfl
  · rintro rfl
    rfl

theorem Decoded.wellFormed {bytes rest : List Byte} {i : Instr} (h : Decoded bytes i rest) :
    i.wellFormed = true := by
  cases h <;> exact opEntry_wellFormed _ _ _

/-- Of every instruction but BRK the encoding is the bytes read. -/
theorem Decoded.bytes_eq {bytes rest : List Byte} {i : Instr} (h : Decoded bytes i rest) (hi : i ≠ .brk) :
    bytes = encode i ++ rest := by
  cases h with
  | implied op tail hmode =>
    rw [Ne, opEntry_eq_brk_iff] at hi
    rw [encode_opEntry, entryBytes_implied hi hmode, ← operandBytes_eq_length op hi, hmode]
    rfl
  | byte op b rest hmode =>
    rw [encode_opEntry, entryBytes_byte hmode]
    rfl
  | word op lo hi rest hmode =>
    rw [encode_opEntry, entryBytes_word hmode, loByte_mkWord, hiByte_mkWord]
    rfl

/-- Of BRK the byte after the opcode is skipped, where there is one (45_control R283). -/
theorem Decoded.brk_bytes {bytes rest : List Byte} (h : Decoded bytes .brk rest) :
    bytes = [0x00] ∧ rest = [] ∨ ∃ pad, bytes = 0x00 :: pad :: rest := by
  generalize hi : Instr.brk = i at h
  cases h with
  | implied op tail hmode =>
    obtain rfl := (opEntry_eq_brk_iff op _ _).1 hi.symm
    cases tail with
    | nil => exact .inl ⟨rfl, rfl⟩
    | cons pad rest => exact .inr ⟨pad, rfl⟩
  | byte op b rest hmode =>
    obtain rfl := (opEntry_eq_brk_iff op _ _).1 hi.symm
    cases hmode
  | word op lo hi rest hmode =>
    obtain rfl := (opEntry_eq_brk_iff op _ _).1 hi.symm
    cases hmode

/-! ### The statements -/

/-- Settles O1, constructor by constructor: the entry of the opcode map at the instruction's opcode, filled with
its operand bytes, is the instruction. -/
theorem decodeOfEncode : Obligations.DecodeOfEncode := by
  unfold Obligations.DecodeOfEncode
  intro i rest hwf
  cases i with
  | adc m | and m | cmp m | eor m | lda m | ora m | sbc m =>
    cases m with
    | imm | zp | zpx | izx | izy =>
      rw [encode, Instr.opcode]
      exact decode_encode_byte rest rfl rfl
    | abs | abx | aby =>
      rw [encode, Instr.opcode]
      exact decode_encode_word rest rfl rfl
  | asl m | lsr m | rol m | ror m =>
    cases m with
    | acc =>
      rw [encode, Instr.opcode]
      exact decode_encode_implied rest rfl rfl rfl
    | zp | zpx =>
      rw [encode, Instr.opcode]
      exact decode_encode_byte rest rfl rfl
    | abs | abx =>
      rw [encode, Instr.opcode]
      exact decode_encode_word rest rfl rfl
  | inc m | dec m =>
    cases m with
    | zp | zpx =>
      rw [encode, Instr.opcode]
      exact decode_encode_byte rest rfl rfl
    | abs | abx =>
      rw [encode, Instr.opcode]
      exact decode_encode_word rest rfl rfl
  | ldx m =>
    cases m with
    | imm | zp | zpy =>
      rw [encode, Instr.opcode]
      exact decode_encode_byte rest rfl rfl
    | abs | aby =>
      rw [encode, Instr.opcode]
      exact decode_encode_word rest rfl rfl
  | ldy m =>
    cases m with
    | imm | zp | zpx =>
      rw [encode, Instr.opcode]
      exact decode_encode_byte rest rfl rfl
    | abs | abx =>
      rw [encode, Instr.opcode]
      exact decode_encode_word rest rfl rfl
  | cpx m | cpy m =>
    cases m with
    | imm | zp =>
      rw [encode, Instr.opcode]
      exact decode_encode_byte rest rfl rfl
    | abs =>
      rw [encode, Instr.opcode]
      exact decode_encode_word rest rfl rfl
  | bit m =>
    cases m with
    | zp =>
      rw [encode, Instr.opcode]
      exact decode_encode_byte rest rfl rfl
    | abs =>
      rw [encode, Instr.opcode]
      exact decode_encode_word rest rfl rfl
  | stx m =>
    cases m with
    | zp | zpy =>
      rw [encode, Instr.opcode]
      exact decode_encode_byte rest rfl rfl
    | abs =>
      rw [encode, Instr.opcode]
      exact decode_encode_word rest rfl rfl
  | sty m =>
    cases m with
    | zp | zpx =>
      rw [encode, Instr.opcode]
      exact decode_encode_byte rest rfl rfl
    | abs =>
      rw [encode, Instr.opcode]
      exact decode_encode_word rest rfl rfl
  | sta m | slo m | rla m | sre m | rra m | dcp m | isc m =>
    cases m with
    | zp | zpx | izx | izy =>
      rw [encode, Instr.opcode]
      exact decode_encode_byte rest rfl rfl
    | abs | abx | aby =>
      rw [encode, Instr.opcode]
      exact decode_encode_word rest rfl rfl
  | sax m =>
    cases m with
    | zp | zpy | izx =>
      rw [encode, Instr.opcode]
      exact decode_encode_byte rest rfl rfl
    | abs =>
      rw [encode, Instr.opcode]
      exact decode_encode_word rest rfl rfl
  | lax m =>
    cases m with
    | imm | zp | zpy | izx | izy =>
      rw [encode, Instr.opcode]
      exact decode_encode_byte rest rfl rfl
    | abs | aby =>
      rw [encode, Instr.opcode]
      exact decode_encode_word rest rfl rfl
  | ahx m =>
    cases m with
    | izy =>
      rw [encode, Instr.opcode]
      exact decode_encode_byte rest rfl rfl
    | aby =>
      rw [encode, Instr.opcode]
      exact decode_encode_word rest rfl rfl
  | jmp m =>
    cases m with
    | abs | ind =>
      rw [encode, Instr.opcode]
      exact decode_encode_word rest rfl rfl
  | jsr | shy | shx | tas | las =>
    rw [encode, Instr.opcode]
    exact decode_encode_word rest rfl rfl
  | bcc | bcs | beq | bmi | bne | bpl | bvc | bvs | alr | arr | xaa | axs | sbcU =>
    rw [encode, Instr.opcode]
    exact decode_encode_byte rest rfl rfl
  | brk => exact decode_noOperand (0x00 :: rest) rfl
  | kil op =>
    obtain ⟨hmode, hlength, hi⟩ := opEntry_kil op (List.contains_iff_mem.1 hwf)
    exact decode_encode_implied rest hmode hlength hi
  | anc op v =>
    obtain ⟨hmode, hi⟩ := opEntry_anc v (mkWord 0 v) op (List.contains_iff_mem.1 hwf)
    exact decode_encode_byte rest hmode hi
  | nopU op e =>
    cases e with
    | none =>
      obtain ⟨hmode, hlength, hi⟩ := opEntry_nop_none op (List.contains_iff_mem.1 hwf)
      exact decode_encode_implied rest hmode hlength hi
    | byte v =>
      obtain ⟨hmode, hi⟩ := opEntry_nop_byte v (mkWord 0 v) op (List.contains_iff_mem.1 hwf)
      exact decode_encode_byte rest hmode hi
    | word w =>
      obtain ⟨hmode, hi⟩ := opEntry_nop_word (loByte w) w op (List.contains_iff_mem.1 hwf)
      exact decode_encode_word rest hmode hi
  | _ =>
    rw [encode, Instr.opcode]
    exact decode_encode_implied rest rfl rfl rfl

/-- Settles O2: each of the three ways to decode reads off one entry of the opcode map, whose opcode and operand
bytes are the bytes read. -/
theorem encodeOfDecode : Obligations.EncodeOfDecode := by
  unfold Obligations.EncodeOfDecode
  intro bytes rest i h
  have hd := decoded_of_decode h
  refine ⟨hd.wellFormed, hd.bytes_eq, ?_⟩
  rintro rfl
  exact hd.brk_bytes

/-- Settles O3: each word is decoded as it stands. -/
theorem sampleWordsDecode : Obligations.SampleWordsDecode := by
  unfold Obligations.SampleWordsDecode
  refine ⟨?_, ?_, ?_, ?_, ?_, ?_, ?_, ?_, ?_, ?_, ?_, ?_, ?_, ?_, ?_, ?_, ?_, ?_, ?_⟩ <;> rfl

/-- What the entry of an opcode answers for three bytes, as the statement of O4 asks for it. -/
theorem decode_three_bytes (op b1 b2 : Byte) (rest : List Byte) :
    ∃ b w, decode (op :: b1 :: b2 :: rest) =
      .ok (opEntry op b w, (b1 :: b2 :: rest).drop ((desc op).length - 1)) := by
  by_cases h0 : op = 0x00
  · subst h0
    exact ⟨0, 0, rfl⟩
  have hlength := operandBytes_eq_length op h0
  have hmode : (desc op).mode.operandBytes = 0 ∨ (desc op).mode.operandBytes = 1 ∨
      (desc op).mode.operandBytes = 2 := by
    cases (desc op).mode <;> simp [Mode.operandBytes]
  rcases hmode with hmode | hmode | hmode
  · exact ⟨0, 0, decode_noOperand _ hmode⟩
  · exact ⟨b1, mkWord 0 b1, by rw [← hlength, hmode]; exact decode_byteOperand _ hmode⟩
  · exact ⟨b1, mkWord b2 b1, by rw [← hlength, hmode]; exact decode_wordOperand _ _ _ hmode⟩

/-- Settles O4: three bytes decode to the entry of their first one, and the rows of the opcode map and of the
descriptor table agree on which opcodes are undocumented. -/
theorem everyOpcodeHasAnEntry : Obligations.EveryOpcodeHasAnEntry := by
  unfold Obligations.EveryOpcodeHasAnEntry
  refine ⟨fun op b1 b2 rest => ?_, by decide +kernel⟩
  obtain ⟨b, w, h⟩ := decode_three_bytes op b1 b2 rest
  refine ⟨_, _, h, opEntry_wellFormed b w op, opEntry_opcode b w op, rfl, ?_⟩
  rw [opEntry_undocumented, Bool.not_eq_true']

/-- Settles O5: the table is read column by column. -/
theorem descriptorBonusColumns : Obligations.DescriptorBonusColumns := by
  unfold Obligations.DescriptorBonusColumns
  decide +kernel

end Sys2Proof.Machine

/-! ## What an instruction may do (10_state R30–R36, 20_memory R80, 40_engine R177): its bus accesses, the registers
and flags it writes, and the marks, said once for every instruction; and the statements O29–O32 and O41 -/

namespace Sys2Proof.Machine

/-! ### Flags: two values of P that agree off a mask (10_state R36) -/

/-- `v` and `p` have the same bits outside `mask`. -/
def AgreesOff (mask p v : Byte) : Prop := v &&& ~~~mask = p &&& ~~~mask

section AgreesOff

variable {mask p v : Byte}

theorem AgreesOff.refl : AgreesOff mask p p := rfl

theorem AgreesOff.getLsbD_eq (h : AgreesOff mask p v) {k : Nat} (hk : k < 8) (hm : mask.getLsbD k = false) :
    v.getLsbD k = p.getLsbD k := by
  have hbit : (v &&& ~~~mask).getLsbD k = (p &&& ~~~mask).getLsbD k := congrArg (BitVec.getLsbD · k) h
  simpa only [BitVec.getLsbD_and, BitVec.getLsbD_not, hm, hk, Bool.not_false, decide_true, Bool.and_true] using hbit

/-- Writing a bit of the mask leaves the bits outside it. -/
theorem AgreesOff.withBit (h : AgreesOff mask p v) (k : Nat) (b : Bool) (hm : mask.getLsbD k = true) :
    AgreesOff mask p (withBit v k b) := by
  refine byte_ext _ _ fun j hj => ?_
  rw [BitVec.getLsbD_and, BitVec.getLsbD_and, getLsbD_withBit _ _ _ _ hj]
  by_cases hjk : j = k
  · subst hjk
    simp [hm]
  · rw [if_neg hjk, ← BitVec.getLsbD_and, ← BitVec.getLsbD_and]
    exact congrArg (BitVec.getLsbD · j) h

variable (b : Bool) (m a reg : Byte)

theorem AgreesOff.putC (h : AgreesOff mask p v) (hm : mask.getLsbD 0 = true) : AgreesOff mask p (putC v b) :=
  h.withBit 0 b hm

theorem AgreesOff.putV (h : AgreesOff mask p v) (hm : mask.getLsbD 6 = true) : AgreesOff mask p (putV v b) :=
  h.withBit 6 b hm

theorem AgreesOff.putNZ (h : AgreesOff mask p v) (hz : mask.getLsbD 1 = true) (hn : mask.getLsbD 7 = true) :
    AgreesOff mask p (putNZ v m) :=
  (h.withBit 1 _ hz).withBit 7 _ hn

variable (p)

theorem putNZ_agrees : AgreesOff 0x82 p (Machine.putNZ p m) := AgreesOff.refl.putNZ m rfl rfl

theorem addCarry_agrees : AgreesOff 0xC3 p (addCarry a m p).2 :=
  ((AgreesOff.refl.putV _ rfl).putC _ rfl).putNZ _ rfl rfl

theorem subBorrow_agrees : AgreesOff 0xC3 p (subBorrow a m p).2 :=
  ((AgreesOff.refl.putC _ rfl).putV _ rfl).putNZ _ rfl rfl

theorem compareFlags_agrees : AgreesOff 0x83 p (compareFlags reg m p) :=
  ((AgreesOff.refl.putC _ rfl).withBit 1 _ rfl).withBit 7 _ rfl

theorem bitFlags_agrees : AgreesOff 0xC2 p (bitFlags a m p) :=
  ((AgreesOff.refl.withBit 1 _ rfl).putV _ rfl).withBit 7 _ rfl

theorem shiftLeft_agrees : AgreesOff 0x83 p (shiftLeft m p).2 := (AgreesOff.refl.putC _ rfl).putNZ _ rfl rfl
theorem shiftRight_agrees : AgreesOff 0x83 p (shiftRight m p).2 := (AgreesOff.refl.putC _ rfl).putNZ _ rfl rfl
theorem rotateLeft_agrees : AgreesOff 0x83 p (rotateLeft m p).2 := (AgreesOff.refl.putC _ rfl).putNZ _ rfl rfl
theorem rotateRight_agrees : AgreesOff 0x83 p (rotateRight m p).2 := (AgreesOff.refl.putC _ rfl).putNZ _ rfl rfl
theorem increment_agrees : AgreesOff 0x82 p (increment m p).2 := putNZ_agrees p _
theorem decrement_agrees : AgreesOff 0x82 p (decrement m p).2 := putNZ_agrees p _

end AgreesOff

/-! ### What an instruction may do -/

/-- The values of P that instruction `i` may write over `p`: one that differs in the flags it writes, which U and B
are not, or a pulled status where it pulls one (10_state R34–R36). -/
inductive FlagWrite (i : Instr) (p : Byte) : Byte → Prop where
  | masked {v mask : Byte} (hv : AgreesOff mask p v) (hmask : Claims.flagsWritten i = mask)
      (hub : mask &&& 0x30 = 0) : FlagWrite i p v
  | pulled (t : Byte) (hmask : Claims.flagsWritten i = 0xFF) : FlagWrite i p (pulledStatus t)

/-- An address that instruction `i`, begun in `s`, may access. -/
def Reaches (i : Instr) (s : State) (a : Word) : Prop := a ∈ Claims.accessed i s ∨ ¬ Claims.outside a

/-- A property that everything instruction `i`, begun in `s`, may do keeps. -/
structure Permitted (i : Instr) (s : State) (P : State → Prop) : Prop where
  read : ∀ t a, Reaches i s a → P t → P (t.read a).2
  write : ∀ t a v, a ∈ Claims.stored i s → Reaches i s a → P t → P (t.write a v)
  setA : Claims.writesA i = true → ∀ t v, P t → P (t.setA v) := by intros; assumption
  setX : Claims.writesX i = true → ∀ t v, P t → P (t.setX v) := by intros; assumption
  setY : Claims.writesY i = true → ∀ t v, P t → P (t.setY v) := by intros; assumption
  setSP : Claims.writesSP i = true → ∀ t v, P t → P (t.setSP v) := by intros; assumption
  setPC : ∀ t w, P t → P (t.setPC w) := by intros; assumption
  setP : ∀ t v, FlagWrite i t.p v → P t → P (t.setP v) := by intros; assumption
  addCycles : ∀ t n, P t → P (t.addCycles n) := by intros; assumption
  refuse : Claims.undocumented i = true → ∀ t, P t → P t.refuse := by intros; assumption
  markStubbed : Claims.undocumented i = true → ∀ t, P t → P t.markStubbed := by intros; assumption

/-- The stack is RAM (42_stack R230). -/
theorem stackAddr_not_outside (sp : Byte) : ¬ Claims.outside (stackAddr sp) := by
  rw [Claims.outside, stackAddr_toNat]
  omega

namespace Permitted

variable {i : Instr} {s : State} {P : State → Prop} (hP : Permitted i s P)
include hP

/-! ### Registers, memory and the stack -/

theorem advance (h : P s) (d : Desc) : P (s.advance d) := hP.setPC _ _ h

theorem setNZ (hmask : Claims.flagsWritten i = 0x82) {t : State} (h : P t) (v : Byte) : P (t.setNZ v) :=
  hP.setP _ _ (.masked (putNZ_agrees _ _) hmask rfl) h

/-- Memory may be read: neither a device nor an unmapped address stands there. -/
theorem readMemory {t : State} (h : P t) {a : Word} (ha : ¬ Claims.outside a) : P (t.read a).2 :=
  hP.read _ _ (.inr ha) h

theorem push (hsp : Claims.writesSP i = true) {t : State} (h : P t) (ha : stackAddr t.sp ∈ Claims.stored i s)
    (v : Byte) : P (t.push v) :=
  hP.setSP hsp _ _ (hP.write _ _ _ ha (.inr (stackAddr_not_outside _)) h)

theorem pull (hsp : Claims.writesSP i = true) {t : State} (h : P t) : P t.pull.2 :=
  hP.readMemory (hP.setSP hsp _ _ h) (stackAddr_not_outside _)

theorem pushWord (hsp : Claims.writesSP i = true) {t : State} (h : P t) (hhi : stackAddr t.sp ∈ Claims.stored i s)
    (hlo : stackAddr (t.sp - 1) ∈ Claims.stored i s) (w : Word) : P (t.pushWord w) :=
  hP.push hsp (hP.push hsp h hhi _) hlo _

theorem pullWord (hsp : Claims.writesSP i = true) {t : State} (h : P t) : P t.pullWord.2 :=
  hP.pull hsp (hP.pull hsp h)

/-! ### The shapes of access (40_engine R177, R182, R183, 45_control R285) -/

theorem readOp (o : Source) (haddr : Claims.sourceAddr i o s = Claims.accessed i s) {f : Byte → State → State}
    (hf : ∀ v t, P t → P (f v t)) (h : P s) : P (Machine.readOp i.desc o f s) := by
  refine hP.addCycles _ _ (hf _ _ ?_)
  cases o with
  | imm v => exact hP.advance h _
  | mem f =>
    have hea : Claims.targetAddr i f s ∈ Claims.accessed i s := haddr ▸ List.mem_singleton_self _
    rw [Source.load, AddrForm.resolve_state]
    exact hP.read _ _ (.inl hea) (hP.advance h _)

theorem storeOp (f : AddrForm) (haddr : [Claims.targetAddr i f s] = Claims.accessed i s)
    (hstore : [Claims.targetAddr i f s] = Claims.stored i s) (v : State → Byte) (h : P s) :
    P (Machine.storeOp i.desc f v s) := by
  have hea : Claims.targetAddr i f s ∈ Claims.accessed i s := haddr ▸ List.mem_singleton_self _
  have hst : Claims.targetAddr i f s ∈ Claims.stored i s := hstore ▸ List.mem_singleton_self _
  refine hP.addCycles _ _ (hP.write _ _ _ hst (.inl hea) ?_)
  rw [AddrForm.resolve_state]
  exact hP.advance h _

theorem rmwOp (o : Target) (hA : o = .acc → Claims.writesA i = true)
    (haddr : Claims.dummyAddr i o s ++ Claims.rmwAddr i o s = Claims.accessed i s)
    (hstore : Claims.rmwAddr i o s = Claims.stored i s) {f : Byte → Byte → Byte × Byte}
    (hf : ∀ m p, FlagWrite i p (f m p).2) (h : P s) : P (Machine.rmwOp i.desc o f s) := by
  cases o with
  | acc => exact hP.addCycles _ _ (hP.setP _ _ (hf _ _) (hP.setA (hA rfl) _ _ (hP.advance h _)))
  | mem a =>
    have hst : Claims.targetAddr i a s ∈ Claims.stored i s := hstore ▸ List.mem_singleton_self _
    have hea : Claims.targetAddr i a s ∈ Claims.accessed i s :=
      haddr ▸ List.mem_append_right _ (List.mem_singleton_self _)
    have hdummy : P ((a.resolve (s.advance i.desc)).2.dummyRead i.desc (a.resolve (s.advance i.desc)).1) := by
      rw [AddrForm.resolve_state]
      unfold State.dummyRead
      split
      next hcross =>
        have hpre : (a.resolve (s.advance i.desc)).1.preCross ∈ Claims.dummyAddr i (.mem a) s := by
          rw [Claims.dummyAddr, if_pos (Bool.and_eq_true_iff.1 hcross).2]
          exact List.mem_singleton_self _
        exact hP.read _ _ (.inl (haddr ▸ List.mem_append_left _ hpre)) (hP.advance h _)
      next => exact hP.advance h _
    have hwrite := fun v => hP.write _ _ v hst (.inl hea) (hP.read _ _ (.inl hea) hdummy)
    exact hP.addCycles _ _ (hP.setP _ _ (by rw [State.write_p]; exact hf _ _) (hwrite _))

theorem impliedOp {f : State → State} (hf : P (s.advance i.desc) → P (f (s.advance i.desc))) (h : P s) :
    P (Machine.impliedOp i.desc f s) :=
  hP.addCycles _ _ (hf (hP.advance h _))

theorem branchOp (taken : Bool) (o : Byte) (h : P s) : P (Machine.branchOp i.desc taken o s) := by
  refine hP.addCycles _ _ ?_
  cases taken with
  | false => exact hP.advance h _
  | true => exact hP.setPC _ _ (hP.advance h _)

theorem undocumentedOp (hu : Claims.undocumented i = true) (h : P s) : P (Machine.undocumentedOp i.desc s) := by
  unfold Machine.undocumentedOp
  split
  · exact hP.refuse hu _ h
  · exact hP.markStubbed hu _ (hP.addCycles _ _ (hP.advance h _))

end Permitted

section ExecPermitted

variable {i : Instr} {s : State} {P : State → Prop}

theorem shiftMode_eq_acc {m : ShiftMode} (h : m.target = .acc) : m = .acc := by
  cases m with
  | acc => rfl
  | _ => cases h

theorem incMode_ne_acc (m : IncMode) : m.target ≠ .acc := by
  cases m <;> exact nofun

variable {t : State}

/-- The stack cells that JSR and BRK push to (45_control R281, R283). -/
theorem stored_jsr (w : Word) : Claims.stored (.jsr w) s = [stackAddr s.sp, stackAddr (s.sp - 1)] := rfl
theorem stored_brk : Claims.stored .brk s = [stackAddr s.sp, stackAddr (s.sp - 1), stackAddr (s.sp - 2)] := rfl

/-- JSR's two pushes (45_control R281). -/
theorem Permitted.jsr {w : Word} (hP : Permitted (.jsr w) s P) (h : P t) (hsp : t.sp = s.sp) (v : Word) :
    P (t.pushWord v) := by
  have hhi : stackAddr t.sp ∈ Claims.stored (.jsr w) s := by simp [stored_jsr, hsp]
  have hlo : stackAddr (t.sp - 1) ∈ Claims.stored (.jsr w) s := by simp [stored_jsr, hsp]
  exact hP.pushWord rfl h hhi hlo v

theorem vector_not_outside : ¬ Claims.outside irqVector ∧ ¬ Claims.outside (irqVector + 1) := by
  simp only [Claims.outside]
  decide

/-- BRK's trap (45_control R283): three pushes, I, and the two bytes of the vector. -/
theorem Permitted.brk (hP : Permitted .brk s P) (h : P t) (hsp : t.sp = s.sp) : P (t.takeTrap irqVector) := by
  have hhi : stackAddr t.sp ∈ Claims.stored .brk s := by simp [stored_brk, hsp]
  have hlo : stackAddr (t.sp - 1) ∈ Claims.stored .brk s := by simp [stored_brk, hsp]
  have hstatus : stackAddr (t.pushWord t.pc).sp ∈ Claims.stored .brk s := by
    rw [State.pushWord_eq_pushedRam]
    simp [stored_brk, hsp]
  have hpush := hP.push rfl (hP.pushWord rfl h hhi hlo t.pc) hstatus (pushedStatus t.p)
  have hset := hP.setP _ (putI _ true) (.masked (AgreesOff.refl.withBit 2 true rfl) rfl rfl) hpush
  have hlow := hP.readMemory hset (a := irqVector) vector_not_outside.1
  exact hP.setPC _ _ (hP.readMemory hlow (a := irqVector + 1) vector_not_outside.2)

theorem exec_permitted (hP : Permitted i s P) (h : P s) : ∃ t, exec i s = .next t ∧ P t := by
  cases i with
  | lda m | and m | ora m | eor m =>
    exact ⟨_, rfl, hP.readOp _ rfl (fun _ _ k => hP.setNZ rfl (hP.setA rfl _ _ k) _) h⟩
  | ldx m => exact ⟨_, rfl, hP.readOp _ rfl (fun _ _ k => hP.setNZ rfl (hP.setX rfl _ _ k) _) h⟩
  | ldy m => exact ⟨_, rfl, hP.readOp _ rfl (fun _ _ k => hP.setNZ rfl (hP.setY rfl _ _ k) _) h⟩
  | adc m =>
    exact ⟨_, rfl, hP.readOp _ rfl
      (fun _ _ k => hP.setP _ _ (.masked (addCarry_agrees _ _ _) rfl rfl) (hP.setA rfl _ _ k)) h⟩
  | sbc m =>
    exact ⟨_, rfl, hP.readOp _ rfl
      (fun _ _ k => hP.setP _ _ (.masked (subBorrow_agrees _ _ _) rfl rfl) (hP.setA rfl _ _ k)) h⟩
  | cmp m | cpx m | cpy m =>
    exact ⟨_, rfl, hP.readOp _ rfl (fun _ _ k => hP.setP _ _ (.masked (compareFlags_agrees _ _ _) rfl rfl) k) h⟩
  | bit m =>
    exact ⟨_, rfl, hP.readOp _ rfl (fun _ _ k => hP.setP _ _ (.masked (bitFlags_agrees _ _ _) rfl rfl) k) h⟩
  | sta m | stx m | sty m => exact ⟨_, rfl, hP.storeOp _ rfl rfl _ h⟩
  | asl m =>
    exact ⟨_, rfl, hP.rmwOp _ (fun hm => by rw [shiftMode_eq_acc hm]; rfl) rfl rfl
      (fun _ _ => .masked (shiftLeft_agrees _ _) rfl rfl) h⟩
  | lsr m =>
    exact ⟨_, rfl, hP.rmwOp _ (fun hm => by rw [shiftMode_eq_acc hm]; rfl) rfl rfl
      (fun _ _ => .masked (shiftRight_agrees _ _) rfl rfl) h⟩
  | rol m =>
    exact ⟨_, rfl, hP.rmwOp _ (fun hm => by rw [shiftMode_eq_acc hm]; rfl) rfl rfl
      (fun _ _ => .masked (rotateLeft_agrees _ _) rfl rfl) h⟩
  | ror m =>
    exact ⟨_, rfl, hP.rmwOp _ (fun hm => by rw [shiftMode_eq_acc hm]; rfl) rfl rfl
      (fun _ _ => .masked (rotateRight_agrees _ _) rfl rfl) h⟩
  | inc m =>
    exact ⟨_, rfl, hP.rmwOp _ (fun hm => absurd hm (incMode_ne_acc m)) rfl rfl
      (fun _ _ => .masked (increment_agrees _ _) rfl rfl) h⟩
  | dec m =>
    exact ⟨_, rfl, hP.rmwOp _ (fun hm => absurd hm (incMode_ne_acc m)) rfl rfl
      (fun _ _ => .masked (decrement_agrees _ _) rfl rfl) h⟩
  | tax | tsx | inx | dex => exact ⟨_, rfl, hP.impliedOp (fun k => hP.setNZ rfl (hP.setX rfl _ _ k) _) h⟩
  | tay | iny | dey => exact ⟨_, rfl, hP.impliedOp (fun k => hP.setNZ rfl (hP.setY rfl _ _ k) _) h⟩
  | txa | tya => exact ⟨_, rfl, hP.impliedOp (fun k => hP.setNZ rfl (hP.setA rfl _ _ k) _) h⟩
  | txs => exact ⟨_, rfl, hP.impliedOp (fun k => hP.setSP rfl _ _ k) h⟩
  | pha | php => exact ⟨_, rfl, hP.impliedOp (fun k => hP.push rfl k (List.mem_singleton_self _) _) h⟩
  | pla => exact ⟨_, rfl, hP.impliedOp (fun k => hP.setNZ rfl (hP.setA rfl _ _ (hP.pull rfl k)) _) h⟩
  | plp => exact ⟨_, rfl, hP.impliedOp (fun k => hP.setP _ _ (.pulled _ rfl) (hP.pull rfl k)) h⟩
  | jmp m =>
    refine ⟨_, rfl, hP.impliedOp (fun k => hP.setPC _ _ ?_) h⟩
    cases m with
    | abs w => exact k
    | ind w => exact hP.read _ _ (.inl (by simp [Claims.accessed])) (hP.read _ _ (.inl (by simp [Claims.accessed])) k)
  | jsr w =>
    exact ⟨_, rfl, hP.impliedOp
      (fun k => hP.setPC _ _ (hP.jsr k rfl _)) h⟩
  | rts => exact ⟨_, rfl, hP.impliedOp (fun k => hP.setPC _ _ (hP.pullWord rfl k)) h⟩
  | brk => exact ⟨_, rfl, hP.impliedOp (fun k => hP.brk k rfl) h⟩
  | rti =>
    exact ⟨_, rfl, hP.impliedOp
      (fun k => hP.setPC _ _ (hP.pullWord rfl (hP.setP _ _ (.pulled _ rfl) (hP.pull rfl k)))) h⟩
  | bcc | bcs | beq | bmi | bne | bpl | bvc | bvs => exact ⟨_, rfl, hP.branchOp _ _ h⟩
  | clc | sec =>
    exact ⟨_, rfl, hP.impliedOp (fun k => hP.setP _ _ (.masked (AgreesOff.refl.withBit 0 _ rfl) rfl rfl) k) h⟩
  | cli | sei =>
    exact ⟨_, rfl, hP.impliedOp (fun k => hP.setP _ _ (.masked (AgreesOff.refl.withBit 2 _ rfl) rfl rfl) k) h⟩
  | cld | sed =>
    exact ⟨_, rfl, hP.impliedOp (fun k => hP.setP _ _ (.masked (AgreesOff.refl.withBit 3 _ rfl) rfl rfl) k) h⟩
  | clv =>
    exact ⟨_, rfl, hP.impliedOp (fun k => hP.setP _ _ (.masked (AgreesOff.refl.withBit 6 _ rfl) rfl rfl) k) h⟩
  | nop => exact ⟨_, rfl, hP.impliedOp id h⟩
  | kil op => exact ⟨_, rfl, hP.refuse rfl _ h⟩
  | _ => exact ⟨_, rfl, hP.undocumentedOp rfl h⟩

/-- What an instruction answers has every property that all it may do keeps. -/
theorem exec_keeps (hP : Permitted i s P) (h : P s) {t : State} (ht : exec i s = .next t) : P t := by
  obtain ⟨u, hu, hPu⟩ := exec_permitted hP h
  rw [ht] at hu
  cases hu
  exact hPu

end ExecPermitted

/-! ### Parts of the state that an instruction leaves -/

/-- Nothing that instruction `i`, begun in `s`, may do changes `g`. -/
structure Unchanged {α : Type} (i : Instr) (s : State) (g : State → α) : Prop where
  read : ∀ t a, Reaches i s a → g (t.read a).2 = g t
  write : ∀ t a v, a ∈ Claims.stored i s → Reaches i s a → g (t.write a v) = g t
  setA : Claims.writesA i = true → ∀ t v, g (t.setA v) = g t := by intros; rfl
  setX : Claims.writesX i = true → ∀ t v, g (t.setX v) = g t := by intros; rfl
  setY : Claims.writesY i = true → ∀ t v, g (t.setY v) = g t := by intros; rfl
  setSP : Claims.writesSP i = true → ∀ t v, g (t.setSP v) = g t := by intros; rfl
  setPC : ∀ t w, g (t.setPC w) = g t := by intros; rfl
  setP : ∀ t v, FlagWrite i t.p v → g (t.setP v) = g t := by intros; rfl
  addCycles : ∀ t n, g (t.addCycles n) = g t := by intros; rfl
  refuse : Claims.undocumented i = true → ∀ t, g t.refuse = g t := by intros; rfl
  markStubbed : Claims.undocumented i = true → ∀ t, g t.markStubbed = g t := by intros; rfl

section Frames

variable {i : Instr} {s t : State}

theorem Unchanged.permitted {α : Type} {g : State → α} (hg : Unchanged i s g) :
    Permitted i s (fun t => g t = g s) where
  read t a ha h := (hg.read t a ha).trans h
  write t a v hs ha h := (hg.write t a v hs ha).trans h
  setA hw t v h := (hg.setA hw t v).trans h
  setX hw t v h := (hg.setX hw t v).trans h
  setY hw t v h := (hg.setY hw t v).trans h
  setSP hw t v h := (hg.setSP hw t v).trans h
  setPC t w h := (hg.setPC t w).trans h
  setP t v hv h := (hg.setP t v hv).trans h
  addCycles t n h := (hg.addCycles t n).trans h
  refuse hu t h := (hg.refuse hu t).trans h
  markStubbed hu t h := (hg.markStubbed hu t).trans h

theorem exec_unchanged {α : Type} {g : State → α} (hg : Unchanged i s g) (ht : exec i s = .next t) : g t = g s :=
  exec_keeps hg.permitted rfl ht

/-! ### Registers and marks (10_state R30, R31, R43, R44) -/

theorem unchanged_a (h : Claims.writesA i = false) : Unchanged i s State.a where
  read t a _ := t.read_a a
  write t a v _ _ := t.write_a a v
  setA hw := absurd hw (by simp [h])

theorem unchanged_x (h : Claims.writesX i = false) : Unchanged i s State.x where
  read t a _ := t.read_x a
  write t a v _ _ := t.write_x a v
  setX hw := absurd hw (by simp [h])

theorem unchanged_y (h : Claims.writesY i = false) : Unchanged i s State.y where
  read t a _ := t.read_y a
  write t a v _ _ := t.write_y a v
  setY hw := absurd hw (by simp [h])

theorem unchanged_sp (h : Claims.writesSP i = false) : Unchanged i s State.sp where
  read t a _ := t.read_sp a
  write t a v _ _ := t.write_sp a v
  setSP hw := absurd hw (by simp [h])

theorem unchanged_params : Unchanged i s State.params where
  read t a _ := t.read_params a
  write t a v _ _ := t.write_params a v

theorem unchanged_irqLine : Unchanged i s State.irqLine where
  read t a _ := t.read_irqLine a
  write t a v _ _ := t.write_irqLine a v

theorem unchanged_runStart : Unchanged i s State.runStart where
  read t a _ := t.read_runStart a
  write t a v _ _ := t.write_runStart a v

/-- A documented instruction sets no mark. -/
theorem unchanged_marks (h : Claims.undocumented i = false) : Unchanged i s (fun t => (t.refused, t.stubbed)) where
  read t a _ := congrArg₂ Prod.mk (t.read_refused a) (t.read_stubbed a)
  write t a v _ _ := congrArg₂ Prod.mk (t.write_refused a v) (t.write_stubbed a v)
  refuse hu := absurd hu (by simp [h])
  markStubbed hu := absurd hu (by simp [h])

/-- No instruction clears `refused`. -/
theorem permitted_refused : Permitted i s (fun t => t.refused = true) where
  read t a _ h := (t.read_refused a).trans h
  write t a v _ _ h := (t.write_refused a v).trans h
  refuse _ _ _ := rfl

/-- No instruction clears `stubbed`. -/
theorem permitted_stubbed : Permitted i s (fun t => t.stubbed = true) where
  read t a _ h := (t.read_stubbed a).trans h
  write t a v _ _ h := (t.write_stubbed a v).trans h
  markStubbed _ _ _ := rfl

/-! ### Flags (10_state R34–R36) -/

theorem unchanged_flags : Unchanged i s (fun t => t.p &&& ~~~(Claims.flagsWritten i)) where
  read t a _ := by rw [State.read_p]
  write t a v _ _ := by rw [State.write_p]
  setP t v hv := by
    cases hv with
    | masked hv hmask hub =>
      rw [hmask]
      exact hv
    | pulled t hmask =>
      rw [hmask]
      exact BitVec.and_zero.trans BitVec.and_zero.symm

/-- A mask disjoint from another lacks its bits. -/
theorem getLsbD_of_and_eq_zero {mask other : Byte} (h : mask &&& other = 0) (k : Nat)
    (hk : other.getLsbD k = true) : mask.getLsbD k = false := by
  have hbit := congrArg (BitVec.getLsbD · k) h
  simp only [BitVec.getLsbD_and, hk, Bool.and_true] at hbit
  exact hbit.trans BitVec.getLsbD_zero

/-- Whatever P an instruction writes, U stays 1 and B stays 0. -/
theorem FlagWrite.keepsUB {p v : Byte} (hv : FlagWrite i p v) (hu : flagU p = true) (hb : flagB p = false) :
    flagU v = true ∧ flagB v = false := by
  cases hv with
  | masked hv hmask hub =>
    exact ⟨(hv.getLsbD_eq (by decide) (getLsbD_of_and_eq_zero hub 5 rfl)).trans hu,
      (hv.getLsbD_eq (by decide) (getLsbD_of_and_eq_zero hub 4 rfl)).trans hb⟩
  | pulled t hmask => exact ⟨flagU_pulledStatus t, flagB_pulledStatus t⟩

/-! ### Memory (20_memory R81, R85) -/

theorem unchanged_memByte (a : Word) (h : ∀ w ∈ Claims.stored i s, w.toNat < 0x2000 → a.toNat < 0x2000 →
    a.toNat % 0x800 ≠ w.toNat % 0x800) : Unchanged i s (fun t => t.memByte a) where
  read t b _ := t.memByte_read b a
  write t w v hw _ := by
    rw [State.memByte_write, if_neg]
    rintro ⟨hwram, haram, hcell⟩
    rw [ramIndex_eq, ramIndex_eq] at hcell
    exact h w hw hwram haram hcell

/-! ### Devices (20_memory R80, R89) -/

/-- An access outside the device window reads memory or writes RAM at most. -/
theorem State.read_not_outside {a : Word} (ha : ¬ Claims.outside a) (t : State) : (t.read a).2 = t := by
  rw [State.read_mem]
  unfold Claims.outside at ha
  omega

theorem State.write_not_outside {a : Word} (ha : ¬ Claims.outside a) (t : State) (v : Byte) :
    t.write a v = { t with ram := (t.write a v).ram } := by
  unfold Claims.outside at ha
  by_cases hram : a.toNat < 0x2000
  · rw [State.write_ram_cell _ _ _ hram]
  · rw [State.write_cart _ _ _ (by omega)]

/-- Everything outside the CPU's registers and RAM. -/
def devices (t : State) : Ppu × Pending × Pad × Option Cartridge × Nat × List (BitVec 16) × Nat :=
  (t.ppu, t.pending, t.pad, t.cart, t.stall, t.inputs, t.inputCalls)

theorem unchanged_devices (h : ∀ w ∈ Claims.accessed i s, ¬ Claims.outside w) : Unchanged i s devices where
  read t a ha := by rw [State.read_not_outside (ha.elim (h a) id)]
  write t a v _ ha := by
    rw [State.write_not_outside (ha.elim (h a) id)]
    rfl

/-- What only a write to a device changes. -/
def storedDevices (t : State) : Mem × Mem × Mem × Option Cartridge × Nat × List (BitVec 16) × Nat :=
  (t.ppu.oam, t.ppu.ciram, t.ppu.palette, t.cart, t.stall, t.inputs, t.inputCalls)

/-- A register read changes no memory of the picture processor. -/
theorem Ppu.readReg_memories (cart : Option Cartridge) (params : Params) (p : Ppu) (r : BitVec 3) :
    (p.readReg cart params r).2.oam = p.oam ∧ (p.readReg cart params r).2.ciram = p.ciram ∧
      (p.readReg cart params r).2.palette = p.palette := by
  unfold Ppu.readReg
  split
  · exact ⟨rfl, rfl, rfl⟩
  split
  · exact ⟨rfl, rfl, rfl⟩
  split <;> exact ⟨rfl, rfl, rfl⟩

theorem State.read_storedDevices (t : State) (a : Word) : storedDevices (t.read a).2 = storedDevices t := by
  by_cases hw : 0x2000 ≤ a.toNat ∧ a.toNat < 0x4000
  · have hticks := Ppu.ticks_same t.cart t.params t.ticksOwed (t.ppu, t.pending)
    obtain ⟨hoam, hciram, hpalette⟩ :=
      t.catchUp.ppu.readReg_memories t.catchUp.cart t.catchUp.params (a.setWidth 3)
    rw [State.read_ppu t a hw]
    simp only [storedDevices, State.ppuRead, hoam, hciram, hpalette]
    simp only [State.catchUp, State.replayed, hticks.oam, hticks.ciram, hticks.palette]
  · unfold State.read
    split
    · rfl
    split
    · omega
    split
    · rfl
    split
    · rfl
    split <;> rfl

theorem unchanged_storedDevices (h : ∀ w ∈ Claims.stored i s, ¬ Claims.outside w) :
    Unchanged i s storedDevices where
  read t a _ := t.read_storedDevices a
  write t a v hs _ := by
    rw [State.write_not_outside (h a hs)]
    rfl

end Frames

/-! ### The statements -/

/-- Settles O29: each register and mark is a part that an instruction leaves unless it may write it. -/
theorem registerFrame : Obligations.RegisterFrame := by
  unfold Obligations.RegisterFrame
  intro i s t ht
  exact ⟨fun h => exec_unchanged (unchanged_a h) ht, fun h => exec_unchanged (unchanged_x h) ht,
    fun h => exec_unchanged (unchanged_y h) ht, fun h => exec_unchanged (unchanged_sp h) ht,
    exec_unchanged unchanged_params ht, exec_unchanged unchanged_irqLine ht, exec_unchanged unchanged_runStart ht,
    fun h => exec_keeps permitted_refused h ht, fun h => exec_keeps permitted_stubbed h ht,
    fun h => Prod.mk.injEq .. ▸ exec_unchanged (unchanged_marks h) ht⟩

/-- Settles O30: the flags outside the mask are a part that an instruction leaves. -/
theorem flagFrame : Obligations.FlagFrame := by
  unfold Obligations.FlagFrame
  intro i s t ht
  exact exec_unchanged unchanged_flags ht

/-- Settles O31: a write changes the byte of its own RAM cell alone, and a read none. -/
theorem memoryFrame : Obligations.MemoryFrame := by
  unfold Obligations.MemoryFrame
  intro i s t a ht h
  exact exec_unchanged (unchanged_memByte a h) ht

/-- Settles O32: an access outside the device window touches no device, and a read inside it writes no device
memory. -/
theorem deviceFrame : Obligations.DeviceFrame := by
  unfold Obligations.DeviceFrame
  intro i s t ht
  refine ⟨fun h => ?accessed, fun h => ?stored⟩
  case accessed => simpa only [devices, Prod.mk.injEq] using exec_unchanged (unchanged_devices h) ht
  case stored => simpa only [storedDevices, Prod.mk.injEq] using exec_unchanged (unchanged_storedDevices h) ht

/-- The invariant is a property that every instruction keeps. -/
theorem permitted_inv (i : Instr) (s : State) : Permitted i s State.Inv where
  read _ a _ h := h.read a
  write _ a v _ _ h := h.write a v
  setA _ _ v h := h.setA v
  setX _ _ v h := h.setX v
  setY _ _ v h := h.setY v
  setSP _ _ v h := h.setSP v
  setPC _ w h := h.setPC w
  setP _ v hv h := h.setP v (hv.keepsUB h.u h.b).1 (hv.keepsUB h.u h.b).2
  addCycles _ n h := h.addCycles n
  refuse _ _ h := h.refuse
  markStubbed _ _ h := h.markStubbed

/-! ### A step is an iteration between the opening and the end of its run call (70_reset R466) -/

section Steps

variable {s t : State}

/-- What an iteration that answers a next state did (40_engine R170). -/
theorem exec_of_engineStep (h : engineStep s = .next t) :
    s.refused = false ∧ s.cart ≠ none ∧ exec s.beforeFetch.fetch.1 s.beforeFetch.fetch.2 = .next t := by
  unfold engineStep at h
  split at h
  · cases h
  next hr =>
    split at h
    · cases h
    next c hc => exact ⟨by simpa using hr, by rw [hc]; exact Option.some_ne_none c, h⟩

/-- What a step that answers a next state did. -/
theorem engineStep_of_step (h : step s = .next t) : ∃ u, engineStep s.openRun = .next u ∧ t = u.closeRun := by
  unfold step at h
  split at h
  next u hu => exact ⟨u, hu, by cases h; rfl⟩
  · cases h
  · cases h

end Steps

/-- Settles O41: the run call's opening and end, what comes before the fetch, the fetch, and everything an
instruction may do keep the invariant. -/
theorem stepKeepsInv : Obligations.StepKeepsInv := by
  unfold Obligations.StepKeepsInv
  intro s t h ht
  obtain ⟨u, hu, rfl⟩ := engineStep_of_step ht
  obtain ⟨-, -, hexec⟩ := exec_of_engineStep hu
  have hfetch : s.openRun.beforeFetch.fetch.2.Inv := h.openRun.beforeFetch.fetch
  exact (exec_keeps (permitted_inv _ _) hfetch hexec).closeRun

end Sys2Proof.Machine

/-! ## Undocumented opcodes and laws of the ALU and the stack (43_alu, 44_shift_rotate, 45_control_transfer,
47_undocumented, 60_exceptions): the statements O24–O28 -/

namespace Sys2Proof.Machine

/-! ### What was pushed is pulled, wherever SP wraps (42_stack R230) -/

section PushedBytes

variable {s t : State} {ram : Mem} {sp a b c p : Byte} {w : Word}

theorem cell_inj {sp sp' : Byte} : Claims.cell sp = Claims.cell sp' ↔ sp = sp' := by
  rw [Claims.cell, Claims.cell, Nat.add_left_cancel_iff, BitVec.toNat_inj]

theorem top_pushed_two (hram : t.ram = Claims.pushedRam ram sp [a, b]) (hsp : t.sp = sp - 2) :
    Claims.top t 1 = b ∧ Claims.top t 2 = a := by
  have h1 : sp - 2 + 1 = sp - 1 := by bv_omega
  have h2 : sp - 2 + 2 = sp := by bv_omega
  have hne : sp ≠ sp - 1 := by bv_omega
  simp only [Claims.top, hram, hsp, h1, h2, Claims.pushedRam, Mem.read_write, cell_inj, hne, if_true, if_false,
    and_self]

theorem top_pushed_three (hram : t.ram = Claims.pushedRam ram sp [a, b, c]) (hsp : t.sp = sp - 3) :
    Claims.top t 1 = c ∧ Claims.top t 2 = b ∧ Claims.top t 3 = a := by
  have h1 : sp - 3 + 1 = sp - 1 - 1 := by bv_omega
  have h2 : sp - 3 + 2 = sp - 1 := by bv_omega
  have h3 : sp - 3 + 3 = sp := by bv_omega
  have hne : sp ≠ sp - 1 ∧ sp - 1 ≠ sp - 1 - 1 ∧ sp ≠ sp - 1 - 1 := by bv_omega
  simp only [Claims.top, hram, hsp, h1, h2, h3, Claims.pushedRam, Mem.read_write, cell_inj, hne, if_true, if_false,
    and_self]

/-- RTS where a return address stands on the stack (45_control R282). -/
theorem exec_rts_of_pushed (hram : t.ram = Claims.pushedRam ram sp [hiByte w, loByte w]) (hsp : t.sp = sp - 2) :
    exec .rts t = .next { t with sp := sp, pc := w + 1, cycles := t.cycles + 6 } := by
  obtain ⟨hlo, hhi⟩ := top_pushed_two hram hsp
  have hback : t.sp + 2 = sp := by rw [hsp]; bv_omega
  rw [(subroutineResults w t).2.1, hlo, hhi, mkWord_hiByte_loByte, hback]

/-- P pulled after it was pushed with B set (10_state R34, R35). -/
theorem pulled_of_pushed_status : ((p ||| 0x10) &&& 0xCF) ||| 0x20 = (p &&& 0xCF) ||| 0x20 := by
  revert p
  decide +kernel

/-- RTI where a trap has pushed PC and P (45_control R284). -/
theorem exec_rti_of_pushed (hram : t.ram = Claims.pushedRam ram sp [hiByte w, loByte w, p ||| 0x10])
    (hsp : t.sp = sp - 3) :
    exec .rti t = .next { t with p := (p &&& 0xCF) ||| 0x20, sp := sp, pc := w, cycles := t.cycles + 6 } := by
  obtain ⟨hp, hlo, hhi⟩ := top_pushed_three hram hsp
  have hback : t.sp + 3 = sp := by rw [hsp]; bv_omega
  rw [(trapResults.1 t).2, hp, hlo, hhi, mkWord_hiByte_loByte, hback, pulled_of_pushed_status]

/-- RTI after an interrupt entry at a vector in cartridge space (60_exceptions R440–R442). -/
theorem exec_rti_of_enterInterrupt (v : Word) (h : 0x6000 ≤ v.toNat) (h' : 0x6000 ≤ (v + 1).toNat) :
    exec .rti (s.enterInterrupt v) = .next { s with
      ram := (s.enterInterrupt v).ram, p := (s.p &&& 0xCF) ||| 0x20
      cycles := s.cycles + 13, pending := .none } := by
  rw [State.enterInterrupt_eq_pushedRam s v h h']
  exact exec_rti_of_pushed rfl rfl

end PushedBytes

/-- Settles O28: each return finds on the stack what the call or the trap pushed there. -/
theorem callsAndTrapsReturn : Obligations.CallsAndTrapsReturn := by
  unfold Obligations.CallsAndTrapsReturn
  intro s w
  refine ⟨?call, ?trap, ⟨_, exec_rti_of_enterInterrupt nmiVector (by decide) (by decide), rfl⟩,
    ⟨_, exec_rti_of_enterInterrupt irqVector (by decide) (by decide), rfl⟩⟩
  case call =>
    have hpc : s.pc + 2 + 1 = s.pc + 3 := add_assoc ..
    refine ⟨_, _, (subroutineResults w s).1, exec_rts_of_pushed rfl rfl, ?_⟩
    rw [hpc]
  case trap => exact ⟨_, _, (trapResults.1 s).1, exec_rti_of_pushed rfl rfl, rfl⟩

/-! ### Undocumented opcodes (47_undocumented R310–R313) -/

section Undocumented

variable {s : State}

theorem undocumentedOp_refuse (d : Desc) (h : s.params.illegalMode = .refuse) : undocumentedOp d s = s.refuse := by
  rw [undocumentedOp, h]

/-- Under `StubNop` an opcode is a flagged no-op of its length and base cycles. -/
theorem undocumentedOp_stub (d : Desc) (h : s.params.illegalMode = .stubNop) :
    undocumentedOp d s = Claims.stub (BitVec.ofNat 16 d.length) d.baseCycles s := by
  rw [undocumentedOp, h]
  rfl

/-- An undocumented opcode is refused, or its operation is that of its descriptor. -/
theorem exec_undocumented {i : Instr} (h : Claims.undocumented i = true) :
    exec i s = .next s.refuse ∨ (¬ ∃ op, i = .kil op) ∧ exec i s = .next (undocumentedOp i.desc s) := by
  cases i with
  | kil op => exact .inl rfl
  | slo | rla | sre | rra | dcp | isc | sax | lax | anc | alr | arr | xaa | axs | ahx | shy | shx | tas | las
  | nopU | sbcU => exact .inr ⟨by simp, rfl⟩
  | _ => cases h

/-- The length and the base cycles of an instruction's descriptor (47_undocumented R312). -/
def Takes (i : Instr) (length : Word) (n : Nat) : Prop :=
  BitVec.ofNat 16 i.desc.length = length ∧ i.desc.baseCycles = n

theorem exec_stub {i : Instr} {length : Word} {n : Nat} (h : s.params.illegalMode = .stubNop)
    (hi : exec i s = .next (undocumentedOp i.desc s)) (ht : Takes i length n) :
    exec i s = .next (Claims.stub length n s) := by
  rw [hi, undocumentedOp_stub _ h, ht.1, ht.2]

end Undocumented

/-- Settles O24: under `Refuse` the operation of every undocumented opcode is the mark, and KIL's always is. -/
theorem undocumentedRefused : Obligations.UndocumentedRefused := by
  unfold Obligations.UndocumentedRefused
  intro i s hu hmode
  rcases exec_undocumented hu with hrefuse | ⟨hkil, hexec⟩
  · exact hrefuse
  · rw [hexec, undocumentedOp_refuse _ (hmode.resolve_right hkil)]
    rfl

/-! ### The table of conventional lengths and cycles (47_undocumented R312) -/

theorem takes_rmwU (m : MemMode) : ∀ i ∈ [Instr.slo m, .rla m, .sre m, .rra m, .dcp m, .isc m],
    Takes i (Claims.addrLength m.form) (Claims.rmwUTime m.form) := by
  simp only [List.forall_mem_cons, List.not_mem_nil, false_implies, implies_true, and_true]
  refine ⟨?_, ?_, ?_, ?_, ?_, ?_⟩ <;> cases m <;> (rw [Takes, Instr.desc, Instr.opcode]; exact ⟨rfl, rfl⟩)

theorem takes_sax (m : SaxMode) : Takes (.sax m) (Claims.addrLength (Claims.saxForm m)) (Claims.saxTime m) := by
  cases m <;> (rw [Takes, Instr.desc, Instr.opcode]; exact ⟨rfl, rfl⟩)

theorem takes_lax (m : LaxMode) : Takes (.lax m) (Claims.laxLength m) (Claims.laxTime m) := by
  cases m <;> (rw [Takes, Instr.desc, Instr.opcode]; exact ⟨rfl, rfl⟩)

theorem takes_ahx (m : AhxMode) : Takes (.ahx m) (Claims.ahxLength m) (Claims.ahxTime m) := by
  cases m <;> (rw [Takes, Instr.desc, Instr.opcode]; exact ⟨rfl, rfl⟩)

theorem takes_immediateU (v : Byte) : ∀ i ∈ [Instr.alr v, .arr v, .xaa v, .axs v, .sbcU v], Takes i 2 2 := by
  simp only [List.forall_mem_cons, List.not_mem_nil, false_implies, implies_true, and_true]
  refine ⟨?_, ?_, ?_, ?_, ?_⟩ <;> (rw [Takes, Instr.desc, Instr.opcode]; exact ⟨rfl, rfl⟩)

theorem takes_unstable (w : Word) : ∀ i ∈ [Instr.shy w, .shx w, .tas w], Takes i 3 5 := by
  simp only [List.forall_mem_cons, List.not_mem_nil, false_implies, implies_true, and_true]
  refine ⟨?_, ?_, ?_⟩ <;> (rw [Takes, Instr.desc, Instr.opcode]; exact ⟨rfl, rfl⟩)

theorem takes_las (w : Word) : Takes (.las w) 3 4 := by
  rw [Takes, Instr.desc, Instr.opcode]
  exact ⟨rfl, rfl⟩

theorem takes_anc (v : Byte) : ∀ op ∈ ancOpcodes, Takes (.anc op v) 2 2 :=
  show ∀ op ∈ ancOpcodes, BitVec.ofNat 16 (desc op).length = 2 ∧ (desc op).baseCycles = 2 by decide

/-- An undocumented NOP takes what its operand and its opcode's column say. -/
theorem takes_nopU (op : Byte) (e : Extra) (h : nopOperandFits op e = true) :
    Takes (.nopU op e) (Claims.extraLength e) (Claims.nopTime op e) := by
  cases e with
  | none =>
    have hrow : ∀ op ∈ nopOpcodes0, BitVec.ofNat 16 (desc op).length = 1 ∧ (desc op).baseCycles = 2 := by decide
    exact hrow op (List.contains_iff_mem.1 h)
  | byte v =>
    have hrow : ∀ op ∈ nopOpcodes1, BitVec.ofNat 16 (desc op).length = 2 ∧ (desc op).baseCycles =
        if op &&& 0x1F = 0x04 then 3 else if op &&& 0x1F = 0x14 then 4 else 2 := by decide
    exact hrow op (List.contains_iff_mem.1 h)
  | word w =>
    have hrow : ∀ op ∈ nopOpcodes2, BitVec.ofNat 16 (desc op).length = 3 ∧ (desc op).baseCycles = 4 := by decide
    exact hrow op (List.contains_iff_mem.1 h)

/-- Settles O25, family by family: each is the stub of the length and the base cycles in its descriptor. -/
theorem undocumentedStubbed : Obligations.UndocumentedStubbed := by
  unfold Obligations.UndocumentedStubbed
  intro s h
  refine ⟨fun m => ⟨?_, ?_, ?_, ?_, ?_, ?_, by cases m <;> rfl, by cases m <;> rfl, by cases m <;> rfl,
      by cases m <;> rfl, by cases m <;> rfl, by cases m <;> rfl⟩,
    fun m => exec_stub h rfl (takes_sax m), fun m => exec_stub h rfl (takes_lax m),
    fun m => exec_stub h rfl (takes_ahx m), fun v => ⟨?_, ?_, ?_, ?_, ?_⟩,
    fun w => ⟨?_, ?_, ?_, exec_stub h rfl (takes_las w)⟩,
    fun op v hwf => exec_stub h rfl (takes_anc v op (List.contains_iff_mem.1 hwf)),
    fun op e hwf => exec_stub h rfl (takes_nopU op e hwf)⟩
  case refine_1 | refine_2 | refine_3 | refine_4 | refine_5 | refine_6 =>
    exact exec_stub h rfl (takes_rmwU m _ (by simp))
  case refine_7 | refine_8 | refine_9 | refine_10 | refine_11 =>
    exact exec_stub h rfl (takes_immediateU v _ (by simp))
  case refine_12 | refine_13 | refine_14 => exact exec_stub h rfl (takes_unstable w _ (by simp))

/-! ### Overflow (43_alu R241) -/

section Overflow

variable (a m r p : Byte)

theorem flagV_addCarry : flagV (addCarry a m p).2 = (~~~(a ^^^ m) &&& (a ^^^ (addCarry a m p).1)).getLsbD 7 := by
  simp [addCarry]

theorem flagV_subBorrow : flagV (subBorrow a m p).2 = ((a ^^^ m) &&& (a ^^^ (subBorrow a m p).1)).getLsbD 7 := by
  simp [subBorrow]

/-- A byte as a signed number: 256 less from 128 on. -/
theorem toInt_byte : a.toInt = if a.toNat < 128 then (a.toNat : Int) else a.toNat - 256 := by
  rw [BitVec.toInt_eq_toNat_cond]
  split <;> split <;> omega

/-- The carry as a number. -/
theorem toInt_and_one : (p &&& 0x01).toInt = bitNat (flagC p) := by
  rw [← bitByte_flagC]
  cases flagC p <;> rfl

/-- The sign-bit test of an addition: the operands' signs agree, and the result's differs. -/
theorem addSigns : (~~~(a ^^^ m) &&& (a ^^^ r)).getLsbD 7 = true ↔
    (128 ≤ a.toNat ↔ 128 ≤ m.toNat) ∧ ¬ (128 ≤ a.toNat ↔ 128 ≤ r.toNat) := by
  simp only [BitVec.getLsbD_and, BitVec.getLsbD_not, BitVec.getLsbD_xor]
  rw [getLsbD_seven_eq_decide a, getLsbD_seven_eq_decide m, getLsbD_seven_eq_decide r]
  by_cases ha : 128 ≤ a.toNat <;> by_cases hm : 128 ≤ m.toNat <;> by_cases hr : 128 ≤ r.toNat <;> simp [ha, hm, hr]

/-- The sign-bit test of a subtraction: the operands' signs differ, and so does the result's from the first. -/
theorem subSigns : ((a ^^^ m) &&& (a ^^^ r)).getLsbD 7 = true ↔
    ¬ (128 ≤ a.toNat ↔ 128 ≤ m.toNat) ∧ ¬ (128 ≤ a.toNat ↔ 128 ≤ r.toNat) := by
  simp only [BitVec.getLsbD_and, BitVec.getLsbD_xor]
  rw [getLsbD_seven_eq_decide a, getLsbD_seven_eq_decide m, getLsbD_seven_eq_decide r]
  by_cases ha : 128 ≤ a.toNat <;> by_cases hm : 128 ≤ m.toNat <;> by_cases hr : 128 ≤ r.toNat <;> simp [ha, hm, hr]

/-- V after ADC: the signed sum with the carry is no signed byte. -/
theorem flagV_addCarry_iff : flagV (addCarry a m p).2 = true ↔
    a.toInt + m.toInt + (p &&& 0x01).toInt < -128 ∨ 127 < a.toInt + m.toInt + (p &&& 0x01).toInt := by
  have hc : bitNat (flagC p) ≤ 1 := by cases flagC p <;> decide
  have hr : (addCarry a m p).1.toNat = (a.toNat + m.toNat + bitNat (flagC p)) % 256 := BitVec.toNat_ofNat ..
  rw [flagV_addCarry, addSigns, toInt_and_one, toInt_byte, toInt_byte, hr]
  have ha := a.isLt
  have hm := m.isLt
  omega

/-- V after SBC: the signed difference with the borrow is no signed byte. -/
theorem flagV_subBorrow_iff : flagV (subBorrow a m p).2 = true ↔
    a.toInt - m.toInt - (1 - (p &&& 0x01).toInt) < -128 ∨ 127 < a.toInt - m.toInt - (1 - (p &&& 0x01).toInt) := by
  have hc : bitNat (flagC p) ≤ 1 := by cases flagC p <;> decide
  have hr : ((subBorrow a m p).1.toNat : Int) = (a.toNat - m.toNat - (1 - bitNat (flagC p))) % 256 := by
    rw [subBorrow, BitVec.toNat_ofInt]
    omega
  rw [flagV_subBorrow, subSigns, toInt_and_one, toInt_byte, toInt_byte]
  have ha := a.isLt
  have hm := m.isLt
  omega

end Overflow

/-- Settles O26: V is written last but for N and Z, and both range conditions are case by case in the signs. -/
theorem overflowIsSignedRange : Obligations.OverflowIsSignedRange := by
  unfold Obligations.OverflowIsSignedRange
  intro a m p
  exact ⟨flagV_addCarry a m p, flagV_subBorrow a m p, flagV_addCarry_iff a m p, flagV_subBorrow_iff a m p⟩

/-! ### A byte and C as nine bits that a rotate turns (44_shift_rotate R272, R273) -/

section Rotates

/-- C above the byte. -/
def withCarry (q : Byte × Byte) : BitVec 9 := BitVec.ofBool (flagC q.2) ++ q.1

theorem withCarry_inj {q r : Byte × Byte} (h : withCarry q = withCarry r) : q.1 = r.1 ∧ flagC q.2 = flagC r.2 := by
  have hbit : ∀ k, (withCarry q).getLsbD k = (withCarry r).getLsbD k := fun k => by rw [h]
  simp only [withCarry, BitVec.getLsbD_append] at hbit
  refine ⟨byte_ext _ _ fun k hk => ?_, by simpa using hbit 8⟩
  have hk' := hbit k
  rwa [if_pos hk, if_pos hk] at hk'

theorem withCarry_rotateLeft (m p : Byte) : withCarry (rotateLeft m p) = (withCarry (m, p)).rotateLeft 1 := by
  have hturn : ∀ (m : Byte) (c : Bool), BitVec.ofBool (m.getLsbD 7) ++ (m <<< 1 ||| bitByte c) =
      (BitVec.ofBool c ++ m).rotateLeft 1 := by decide +kernel
  rw [withCarry, rotateLeft, flagC_putNZ, flagC_putC]
  exact hturn m (flagC p)

theorem withCarry_rotateRight (m p : Byte) : withCarry (rotateRight m p) = (withCarry (m, p)).rotateRight 1 := by
  have hturn : ∀ (m : Byte) (c : Bool), BitVec.ofBool (m.getLsbD 0) ++ (m >>> 1 ||| bitByte c <<< 7) =
      (BitVec.ofBool c ++ m).rotateRight 1 := by decide +kernel
  rw [withCarry, rotateRight, flagC_putNZ, flagC_putC]
  exact hturn m (flagC p)

theorem rotateLeft_nine : ∀ x : BitVec 9, (fun y => y.rotateLeft 1)^[9] x = x := by decide +kernel
theorem rotateRight_nine : ∀ x : BitVec 9, (fun y => y.rotateRight 1)^[9] x = x := by decide +kernel
theorem rotateRight_rotateLeft_nine : ∀ x : BitVec 9, (x.rotateLeft 1).rotateRight 1 = x := by decide +kernel

end Rotates

/-- Settles O27: a rotate turns the nine bits of the byte and C by one place. -/
theorem nineRotatesRestore : Obligations.NineRotatesRestore := by
  unfold Obligations.NineRotatesRestore
  intro m p
  have hleft : withCarry ((fun q : Byte × Byte => rotateLeft q.1 q.2)^[9] (m, p)) = withCarry (m, p) :=
    (Function.Semiconj.iterate_right (f := withCarry) (fun q => withCarry_rotateLeft q.1 q.2) 9 (m, p)).trans
      (rotateLeft_nine _)
  have hright : withCarry ((fun q : Byte × Byte => rotateRight q.1 q.2)^[9] (m, p)) = withCarry (m, p) :=
    (Function.Semiconj.iterate_right (f := withCarry) (fun q => withCarry_rotateRight q.1 q.2) 9 (m, p)).trans
      (rotateRight_nine _)
  have hundo : withCarry (rotateRight (rotateLeft m p).1 (rotateLeft m p).2) = withCarry (m, p) := by
    rw [withCarry_rotateRight, withCarry_rotateLeft, rotateRight_rotateLeft_nine]
  exact ⟨(withCarry_inj hleft).1, (withCarry_inj hleft).2, (withCarry_inj hright).1, (withCarry_inj hright).2,
    (withCarry_inj hundo).1, (withCarry_inj hundo).2⟩

end Sys2Proof.Machine

/-! ## The step (40_engine, 60_exceptions, 70_reset_and_hazards): what comes before the instruction, what a step runs,
and when it has none; and the statements O33–O36, O38–O40 and O60 -/

namespace Sys2Proof.Machine

section BeforeTheInstruction

variable {s : State}

/-! ### One look at the IRQ line, then the interrupt check (60_exceptions R437, R439) -/

/-- The pending tag after one look at the IRQ line. -/
def State.sampledTag (s : State) : Pending :=
  if s.irqLine.head? = some true ∧ s.pending = .none then .irq else s.pending

theorem State.sampleIrq_eq (s : State) :
    s.sampleIrq = { s with irqLine := s.irqLine.tail, pending := s.sampledTag } := by
  rw [State.sampleIrq, State.sampledTag]
  split
  next h => rw [h]; cases s; simp_all
  next request rest h => cases request <;> simp [h]

theorem State.interruptCheck_irq_masked (h : s.pending = .irq) (hi : s.p &&& 0x04 ≠ 0) : s.interruptCheck = s := by
  have hflag : flagI s.p = true := (getLsbD_eq_mask s.p 2 (by decide)).trans (bne_iff_ne.2 hi)
  rw [State.interruptCheck, h, hflag]
  rfl

theorem State.interruptCheck_none (h : s.pending = .none) : s.interruptCheck = s := by
  rw [State.interruptCheck, h]

theorem State.interruptCheck_eq (s : State) : s.interruptCheck =
    if s.pending = .nmi then s.enterInterrupt nmiVector
    else if s.pending = .irq ∧ s.p &&& 0x04 = 0 then s.enterInterrupt irqVector
    else s := by
  cases h : s.pending with
  | none => simp [State.interruptCheck_none h]
  | nmi => simp [State.interruptCheck_nmi h]
  | irq =>
    by_cases hi : s.p &&& 0x04 = 0
    · rw [State.interruptCheck_irq h hi, if_neg (by simp), if_pos ⟨rfl, hi⟩]
    · rw [State.interruptCheck_irq_masked h hi, if_neg (by simp), if_neg fun hn => hi hn.2]

end BeforeTheInstruction

/-- Settles O36: the stall block, the look at the line and the check are one update each. -/
theorem interruptDecision : Obligations.InterruptDecision := by
  unfold Obligations.InterruptDecision
  rintro s u tag rfl rfl
  rw [State.beforeFetch, State.sampleIrq_eq, State.interruptCheck_eq]
  rfl

section Iteration

variable {s t : State}

/-! ### The opening and the end of a run call (70_reset R466) -/

@[simp] theorem State.openRun_refused (s : State) : s.openRun.refused = s.refused := by
  unfold State.openRun
  split <;> rfl

@[simp] theorem State.openRun_cart (s : State) : s.openRun.cart = s.cart := by
  unfold State.openRun
  split <;> rfl

@[simp] theorem State.openRun_params (s : State) : s.openRun.params = s.params := by
  unfold State.openRun
  split <;> rfl

@[simp] theorem State.openRun_irqLine (s : State) : s.openRun.irqLine = s.irqLine := by
  unfold State.openRun
  split <;> rfl

@[simp] theorem State.openRun_cycles (s : State) : s.openRun.cycles = s.cycles := by
  unfold State.openRun
  split <;> rfl

theorem State.openRun_runStart (h : s.runStart = none) : s.openRun.runStart = some s.cycles := by
  rw [State.openRun, h]

@[simp] theorem State.closeRun_refused (s : State) : s.closeRun.refused = s.refused := by
  unfold State.closeRun
  split <;> rfl

@[simp] theorem State.closeRun_cart (s : State) : s.closeRun.cart = s.cart := by
  unfold State.closeRun
  split <;> rfl

@[simp] theorem State.closeRun_params (s : State) : s.closeRun.params = s.params := by
  unfold State.closeRun
  split <;> rfl

@[simp] theorem State.closeRun_irqLine (s : State) : s.closeRun.irqLine = s.irqLine := by
  unfold State.closeRun
  split <;> rfl

@[simp] theorem State.closeRun_cycles (s : State) : s.closeRun.cycles = s.cycles := by
  unfold State.closeRun
  split <;> rfl

/-! ### Where a step exists (10_state R43, 52_cartridge R408) -/

theorem engineStep_of_refused (h : s.refused = true) : engineStep s = .refused .alreadyRefused := by
  rw [engineStep, if_pos h]

theorem engineStep_of_noCartridge (hr : s.refused = false) (hc : s.cart = none) :
    engineStep s = .fault .noCartridge := by
  rw [engineStep, if_neg (by simp [hr]), hc]

theorem step_of_engineStep (h : engineStep s.openRun = .next t) : step s = .next t.closeRun := by
  rw [step, h]

theorem step_of_refused (h : s.refused = true) : step s = .refused .alreadyRefused := by
  rw [step, engineStep_of_refused (s.openRun_refused.trans h)]

theorem step_of_noCartridge (hr : s.refused = false) (hc : s.cart = none) : step s = .fault .noCartridge := by
  rw [step, engineStep_of_noCartridge (s.openRun_refused.trans hr) (s.openRun_cart.trans hc)]

theorem step_next_iff : (∃ t, step s = .next t) ↔ s.refused = false ∧ s.cart ≠ none := by
  constructor
  · rintro ⟨t, ht⟩
    obtain ⟨u, hu, -⟩ := engineStep_of_step ht
    obtain ⟨hr, hc, -⟩ := exec_of_engineStep hu
    exact ⟨s.openRun_refused ▸ hr, s.openRun_cart ▸ hc⟩
  · rintro ⟨hr, hc⟩
    obtain ⟨u, hu⟩ := engineStep_next (s.openRun_refused.trans hr) (s.openRun_cart.symm ▸ hc)
    exact ⟨_, step_of_engineStep hu⟩

/-! ### Where a host operation exists (70_reset R460, R463, R466) -/

theorem State.hostOp_of_closed {α : Type} (h : s.runStart = none) (op : Host.Outcome α Fault Refusal) :
    s.hostOp op = op := by
  rw [State.hostOp, h]

theorem State.hostOp_of_open {α : Type} (h : s.runStart ≠ none) (op : Host.Outcome α Fault Refusal) :
    s.hostOp op = .refused .reentrantCall := by
  obtain ⟨start, h⟩ := Option.ne_none_iff_exists'.1 h
  rw [State.hostOp, h]

theorem resetOp_of_noCartridge (h : s.runStart = none) (hc : s.cart = none) : s.resetOp = .fault .noCartridge := by
  rw [State.resetOp, State.hostOp_of_closed h, hc]

theorem run_of_noCartridge (h : s.runStart = none) (hc : s.cart = none) (budget : Nat) :
    run budget s = .fault .noCartridge := by
  rw [run, State.hostOp_of_closed h, runCall, hc]

/-- In a refused state the loop's first iteration does nothing and is its last. -/
theorem runLoop_of_refused (hr : s.refused = true) (budget start fuel : Nat) :
    runLoop budget start (fuel + 1) s = .next s.catchUp := by
  have hiter : runIteration s = .next s := by rw [runIteration, if_pos hr]
  simp only [runLoop, hiter, hr, Bool.true_or, if_true]

theorem run_of_refused (h : s.runStart = none) (hc : s.cart ≠ none) (hr : s.refused = true) (budget : Nat) :
    run budget s = .next (0, s.catchUp) := by
  obtain ⟨c, hc⟩ := Option.ne_none_iff_exists'.1 hc
  simp only [run, State.hostOp_of_closed h, runCall, hc, runLoop_of_refused hr, State.catchUp_cycles, Nat.sub_self]

end Iteration

/-- Settles O35: an iteration stops at the `refused` mark and without a cartridge alone, and a host operation at an
open run call. -/
theorem stepStopsOnlyWhereNoStepExists : Obligations.StepStopsOnlyWhereNoStepExists := by
  unfold Obligations.StepStopsOnlyWhereNoStepExists
  intro s
  exact ⟨step_next_iff, step_of_refused, step_of_noCartridge,
    fun h hc => ⟨resetOp_of_noCartridge h hc, run_of_noCartridge h hc⟩, run_of_refused,
    fun h => ⟨State.hostOp_of_open h _, State.hostOp_of_open h _, fun _ => State.hostOp_of_open h _,
      fun _ => State.hostOp_of_open h _⟩⟩

/-! ### The time and the end of a run call (70_reset R466, R467; log 9) -/

section Time

variable {s t : State}

/-- An iteration leaves the run mark and the parameters. -/
theorem runMark_closed (start : Option Nat) (params : Params) :
    StepClosed (fun t => t.runStart = start ∧ t.params = params) where
  read t a h := ⟨(t.read_runStart a).trans h.1, (t.read_params a).trans h.2⟩
  write t a v h := ⟨(t.write_runStart a v).trans h.1, (t.write_params a v).trans h.2⟩
  setA _ _ h := h
  setX _ _ h := h
  setY _ _ h := h
  setSP _ _ h := h
  setPC _ _ h := h
  setP _ _ h := h
  addCycles _ _ h := h
  refuse _ h := h
  markStubbed _ h := h
  boundary _ _ _ _ h := h

theorem State.closeRun_of_ends (h : t.runEnds = true) :
    t.closeRun.runStart = none ∧ t.closeRun.ppu.lastSynced = t.closeRun.cycles := by
  rw [State.closeRun, if_pos h]
  exact ⟨rfl, rfl⟩

/-- With a budget of at most 1 the iteration after the opening spends it. -/
theorem runEnds_of_engineStep (hb : s.params.runBudget ≤ 1) (hs : s.runStart = none)
    (h : engineStep s.openRun = .next t) : t.runEnds = true := by
  obtain ⟨hstart, hparams⟩ := (runMark_closed (some s.cycles) s.params).engineStep
    ⟨State.openRun_runStart hs, s.openRun_params⟩ h
  have htime := (engineStep_cycles h).2
  rw [State.openRun_cycles] at htime
  rw [State.runEnds, hstart, hparams]
  cases hr : t.refused with
  | true => rfl
  | false =>
    have := htime hr
    simp only [Bool.false_or, decide_eq_true_eq]
    omega

end Time

/-- Settles O38: the iteration alone takes time, and it is enough for a budget of 1. -/
theorem everyStepEndsItsRun : Obligations.EveryStepEndsItsRun := by
  unfold Obligations.EveryStepEndsItsRun
  intro s t h
  obtain ⟨u, hu, rfl⟩ := engineStep_of_step h
  have htime := engineStep_cycles hu
  rw [State.openRun_cycles] at htime
  refine ⟨by simpa using htime.1, by simpa using htime.2, fun hb hs => ?_⟩
  exact State.closeRun_of_ends (runEnds_of_engineStep hb hs hu)

/-! ### What no step changes (10_state R57, R58, 52_cartridge R405, R406) -/

/-- The part of a cartridge that nothing writes: all but CHR RAM. -/
def Cartridge.rom (c : Cartridge) : Cartridge := if c.chrIsRam then { c with chr := [] } else c

theorem Cartridge.rom_writeChr (c : Cartridge) (a : BitVec 14) (d : Byte) : (c.writeChr a d).rom = c.rom := by
  cases h : c.chrIsRam with
  | false => rw [Cartridge.writeChr_rom c a d h]
  | true => simp [Cartridge.rom, Cartridge.writeChr, h]

/-- A register write reaches the cartridge only as a write of CHR. -/
theorem Ppu.writeReg_rom (cart : Option Cartridge) (params : Params) (p : Ppu) (r : BitVec 3) (d : Byte) :
    (p.writeReg cart params r d).2.map Cartridge.rom = cart.map Cartridge.rom := by
  rw [writeReg_cart]
  split
  · unfold Ppu.busWrite
    split
    · cases cart with
      | none => rfl
      | some c => exact congrArg some (c.rom_writeChr _ d)
    · split <;> rfl
  · rfl

theorem State.write_rom (s : State) (addr : Word) (v : Byte) :
    (s.write addr v).cart.map Cartridge.rom = s.cart.map Cartridge.rom := by
  by_cases hc : 0x6000 ≤ addr.toNat
  · rw [State.write_cart _ _ _ hc]
  unfold State.write
  split
  · rfl
  split
  · exact Ppu.writeReg_rom _ _ _ _ _
  split
  · unfold State.oamDma
    rw [State.dmaCopy_shape]
  split
  · unfold State.strobeWrite
    split
    · rfl
    split <;> rfl
  rfl

theorem rom_closed (params : Params) (rom : Option Cartridge) :
    StepClosed (fun t => t.params = params ∧ t.cart.map Cartridge.rom = rom) where
  read t a h := ⟨(t.read_params a).trans h.1, by rw [State.read_cart]; exact h.2⟩
  write t a v h := ⟨(t.write_params a v).trans h.1, (t.write_rom a v).trans h.2⟩
  setA _ _ h := h
  setX _ _ h := h
  setY _ _ h := h
  setSP _ _ h := h
  setPC _ _ h := h
  setP _ _ h := h
  addCycles _ _ h := h
  refuse _ h := h
  markStubbed _ h := h
  boundary _ _ _ _ h := h

theorem Cartridge.eq_of_rom_eq {c d : Cartridge} (h : d.rom = c.rom) :
    d.prg = c.prg ∧ d.prgMask = c.prgMask ∧ d.chrMask = c.chrMask ∧ d.chrIsRam = c.chrIsRam ∧
      d.mirroring = c.mirroring ∧ d.mapper = c.mapper ∧ (c.chrIsRam = false → d = c) := by
  have hram : ∀ c : Cartridge, c.rom.chrIsRam = c.chrIsRam := by
    intro c
    unfold Cartridge.rom
    split <;> rfl
  have hd : d.chrIsRam = c.chrIsRam := by rw [← hram d, ← hram c, h]
  unfold Cartridge.rom at h
  rw [hd] at h
  cases hc : c.chrIsRam with
  | false =>
    rw [hc] at h
    obtain rfl : d = c := h
    exact ⟨rfl, rfl, rfl, hc, rfl, rfl, fun _ => rfl⟩
  | true =>
    rw [hc, if_pos rfl, if_pos rfl, Cartridge.mk.injEq] at h
    obtain ⟨hprg, hprgMask, -, hchrMask, -, hmirroring, hmapper⟩ := h
    exact ⟨hprg, hprgMask, hchrMask, hd.trans hc, hmirroring, hmapper, nofun⟩

/-- Bus accesses and register writes leave the IRQ line. -/
theorem irqLine_closed (line : List Bool) : BusClosed (fun t => t.irqLine = line) where
  read t a h := (t.read_irqLine a).trans h
  write t a v h := (t.write_irqLine a v).trans h
  setA _ _ h := h
  setX _ _ h := h
  setY _ _ h := h
  setSP _ _ h := h
  setPC _ _ h := h
  setP _ _ h := h

/-- An iteration takes one entry of the IRQ line, and no more (60_exceptions R437; log 6). -/
theorem beforeFetch_irqLine (s : State) : s.beforeFetch.irqLine = s.irqLine.tail := by
  have henter : ∀ (u : State) (v : Word), (u.enterInterrupt v).irqLine = u.irqLine := fun u v =>
    (irqLine_closed u.irqLine).takeTrap rfl v
  rw [State.beforeFetch, State.sampleIrq_eq, State.interruptCheck_eq]
  split
  · exact henter _ _
  split
  · exact henter _ _
  · rfl

theorem engineStep_irqLine {s t : State} (h : engineStep s = .next t) : t.irqLine = s.irqLine.tail := by
  obtain ⟨-, -, hexec⟩ := exec_of_engineStep h
  rw [exec_unchanged unchanged_irqLine hexec]
  exact (irqLine_closed s.irqLine.tail).fetch (beforeFetch_irqLine s)

/-- Settles O39: the parameters and all of the cartridge but CHR RAM are a part that an iteration keeps, and of the
IRQ line it takes one entry before the fetch. -/
theorem stepKeepsRom : Obligations.StepKeepsRom := by
  unfold Obligations.StepKeepsRom
  intro s t h
  obtain ⟨u, hu, rfl⟩ := engineStep_of_step h
  obtain ⟨hparams, hrom⟩ := (rom_closed s.params (s.cart.map Cartridge.rom)).engineStep
    ⟨s.openRun_params, by rw [State.openRun_cart]⟩ hu
  obtain ⟨c, hc⟩ := Option.ne_none_iff_exists'.1 (step_next_iff.1 ⟨_, h⟩).2
  rw [hc, Option.map_some, Option.map_eq_some_iff] at hrom
  obtain ⟨d, hd, hrom⟩ := hrom
  refine ⟨u.closeRun_params.trans hparams, ?_, c, d, hc, u.closeRun_cart.trans hd, Cartridge.eq_of_rom_eq hrom⟩
  rw [State.closeRun_irqLine, engineStep_irqLine hu, State.openRun_irqLine]

/-! ### The fetch (40_engine R172, 47_undocumented R310, R311, R313) -/

section Fetch

variable {s u : State} {op : Byte}

theorem State.fetchCount_eq (s : State) (op : Byte) : s.fetchCount op = Claims.operandBytesRead s.params op := by
  unfold State.fetchCount Claims.operandBytesRead
  split
  · rfl
  · cases s.params.illegalMode with
    | refuse => exact (if_pos (.inl rfl)).symm
    | stubNop =>
      simp only [List.contains_iff_mem, reduceCtorEq, false_or]
      rfl

theorem operandBytesRead_le (params : Params) (op : Byte) : Claims.operandBytesRead params op ≤ 2 := by
  have hmode : ∀ op : Byte, (desc op).mode.operandBytes ≤ 2 ∧ (desc op).length - 1 ≤ 2 := by decide +kernel
  unfold Claims.operandBytesRead
  split
  · exact (hmode op).1
  split
  · omega
  · exact (hmode op).2

theorem State.fetch_none (hop : s.read s.pc = (op, u)) (h : u.fetchCount op = 0) :
    s.fetch = (decodeOp op 0 0, u) := by
  simp only [State.fetch, hop, h]

theorem State.fetch_one (hop : s.read s.pc = (op, u)) (h : u.fetchCount op = 1) :
    s.fetch = (decodeOp op (u.read (s.pc + 1)).1 0, (u.read (s.pc + 1)).2) := by
  simp only [State.fetch, hop, h]

theorem State.fetch_two (hop : s.read s.pc = (op, u)) (h : u.fetchCount op = 2) :
    s.fetch = (decodeOp op (u.read (s.pc + 1)).1 ((u.read (s.pc + 1)).2.read (s.pc + 2)).1,
      ((u.read (s.pc + 1)).2.read (s.pc + 2)).2) := by
  simp only [State.fetch, hop, h]

/-- The fetch reads the operand bytes of the opcode's mode, except of an opcode that `Refuse` refuses. -/
theorem State.fetchCount_cases (s : State) (op : Byte) : s.fetchCount op = (desc op).mode.operandBytes ∨
    s.fetchCount op = 0 ∧ (desc op).documented = false ∧ s.params.illegalMode = .refuse := by
  have hkil : ∀ op ∈ kilOpcodes, (desc op).mode.operandBytes = 0 := by decide
  unfold State.fetchCount
  cases hdoc : (desc op).documented with
  | true => exact .inl rfl
  | false =>
    cases hmode : s.params.illegalMode with
    | refuse => exact .inr ⟨rfl, rfl, rfl⟩
    | stubNop =>
      left
      simp only [Bool.false_eq_true, if_false]
      split
      next hk => exact (hkil op (List.contains_iff_mem.1 hk)).symm
      next => exact (operandBytes_eq_length op (by rintro rfl; cases hdoc)).symm

end Fetch

/-- Settles O34: the fetch counts its operand bytes as the statement does. -/
theorem fetchReadsThroughTheBus : Obligations.FetchReadsThroughTheBus := by
  unfold Obligations.FetchReadsThroughTheBus
  refine ⟨?_, rfl, fun op _ h => operandBytes_eq_length op h⟩
  rintro s u op n hop rfl
  have hcount : u.fetchCount op = Claims.operandBytesRead s.params op := by
    rw [State.fetchCount_eq, ← s.read_params s.pc, hop]
  exact ⟨operandBytesRead_le _ _, fun h => State.fetch_none hop (hcount.trans h),
    fun h => State.fetch_one hop (hcount.trans h), fun h => State.fetch_two hop (hcount.trans h)⟩

/-! ### A step runs what the bytes at PC decode to (40_engine R170, R172) -/

section Runs

variable {u : State} {i : Instr} {rest : List Byte}

theorem State.read_memory {a : Word} (h : ¬ Claims.outside a) (u : State) : u.read a = (u.memByte a, u) := by
  rw [State.read_mem]
  unfold Claims.outside at h
  omega

/-- The fetch of the bytes of an instruction in memory gives that instruction, in the same state, except of an opcode
that `Refuse` refuses, of which it gives one of the same opcode. -/
theorem exec_fetch (h0 : ¬ Claims.outside u.pc) (h1 : ¬ Claims.outside (u.pc + 1))
    (h2 : ¬ Claims.outside (u.pc + 2))
    (hi : Decoded [u.memByte u.pc, u.memByte (u.pc + 1), u.memByte (u.pc + 2)] i rest) :
    exec u.fetch.1 u.fetch.2 = exec i u := by
  have hop := State.read_memory h0 u
  rcases u.fetchCount_cases (u.memByte u.pc) with hcount | ⟨hcount, hdoc, hrefuse⟩
  · cases hi with
    | implied op tail hmode =>
      rw [State.fetch_none hop (hcount.trans hmode)]
      rfl
    | byte op b rest hmode =>
      rw [State.fetch_one hop (hcount.trans hmode), State.read_memory h1]
      rfl
    | word op lo hi rest hmode =>
      rw [State.fetch_two hop (hcount.trans hmode), State.read_memory h1, State.read_memory h2]
      rfl
  · have hrefused : ∀ (b : Byte) (w : Word),
        exec (opEntry (u.memByte u.pc) b w) u = .next { u with refused := true } := fun b w =>
      undocumentedRefused _ u (by rw [opEntry_undocumented, hdoc]; rfl) (.inl hrefuse)
    rw [State.fetch_none hop hcount]
    refine (hrefused 0 0).trans ?_
    cases hi with
    | implied => exact (hrefused _ _).symm
    | byte => exact (hrefused _ _).symm
    | word => exact (hrefused _ _).symm

end Runs

/-- Settles O33: in memory the fetch reads the bytes that decode, and the run call is closed after the iteration. -/
theorem stepRunsDecodedInstruction : Obligations.StepRunsDecodedInstruction := by
  unfold Obligations.StepRunsDecodedInstruction
  rintro s u c i rest hr hc rfl h0 h1 h2 hi
  have hd := decoded_of_decode hi
  obtain ⟨t, ht⟩ := engineStep_next (s := s.openRun) (s.openRun_refused.trans hr) (by simp [hc])
  obtain ⟨-, -, hexec⟩ := exec_of_engineStep ht
  exact ⟨hd.wellFormed, t, (exec_fetch h0 h1 h2 hd).symm.trans hexec, step_of_engineStep ht⟩

/-! ### Reset (10_state R60, 70_reset R460) -/

/-- Settles O40: every memory is empty, and the picture processor is the one after reset. -/
theorem resetInv : Obligations.ResetInv where
  u := rfl
  b := rfl
  ram := Mem.good_nil _
  ppu := Ppu.reset_inv _
  cart := nofun
  synced := Nat.le_refl _

/-- The state at power on meets the invariant, where the parameters put the picture processor on its grid. -/
theorem State.powerOn_inv {s : State} (hcart : ∀ c, s.cart = some c → c.Inv) (hdot : s.params.resetDot ≤ 340)
    (hline : s.params.resetScanline ≤ 261) : s.powerOn.Inv where
  u := resetInv.u
  b := resetInv.b
  ram := Mem.good_ofCells 2048 (by decide) _
  ppu := { Ppu.reset_inv s.params with dot := hdot, scanline := hline, line := (Ppu.reset_inv s.params).line }
  cart := hcart
  synced := Nat.le_refl _

theorem State.resetOp_eq {s : State} {c : Cartridge} (hc : s.cart = some c) (hr : s.runStart = none) :
    s.resetOp = .next (s.powerOn.setPC (Claims.vector s 0xFFFC)) := by
  rw [State.resetOp, State.hostOp_of_closed hr, hc]
  exact congrArg (fun r : Word × State => Host.Outcome.next (r.2.setPC r.1))
    (s.powerOn.read16_cart resetVector (by decide) (by decide))

/-- Settles O60: the operation is the power-on state with PC from the vector. -/
theorem resetOperation : Obligations.ResetOperation := by
  unfold Obligations.ResetOperation
  intro s c hc hr
  refine ⟨_, State.resetOp_eq hc hr, rfl, rfl, rfl, rfl, rfl, rfl, rfl, rfl, rfl, rfl, rfl, rfl, rfl,
    fun _ => ⟨rfl, rfl, rfl, rfl⟩, rfl, rfl, rfl, rfl, rfl, rfl, rfl, fun hinv hdot hline => ?_⟩
  have hcart : ∀ d, s.cart = some d → d.Inv := fun d hd => Option.some.inj (hc.symm.trans hd) ▸ hinv
  exact (State.powerOn_inv hcart hdot hline).setPC _

end Sys2Proof.Machine

/-! ## Device ports (52_cartridge_controller, 50_ppu_registers, 20_memory section 5): the controllers, an address pair
on `$2006`, and the PPU bus; the statements O46, O50 and O51 -/

namespace Sys2Proof.Machine

section Controllers

variable {s : State} {d : Byte}

/-! ### The controller latch (52_cartridge R420–R422) -/

theorem snapshotByte_eq (snapshot : BitVec 16) (second : Bool) :
    snapshotByte snapshot second = if second then hiByte snapshot else loByte snapshot := rfl

/-- Bit 0 by the mask 0x01. -/
theorem getLsbD_zero_eq_true_iff : d.getLsbD 0 = true ↔ d &&& 0x01 = 1 := by
  rw [← bitByte_flagC, flagC]
  cases d.getLsbD 0 <;> decide

theorem getLsbD_zero_eq_false_iff : d.getLsbD 0 = false ↔ d &&& 0x01 = 0 := by
  rw [← bitByte_flagC, flagC]
  cases d.getLsbD 0 <;> decide

theorem State.strobeWrite_high (h : d &&& 0x01 = 1) : s.strobeWrite d =
    { s with pad := ⟨true, s.pad.snapshot, loByte s.pad.snapshot, hiByte s.pad.snapshot⟩ } := by
  rw [State.strobeWrite, if_pos (getLsbD_zero_eq_true_iff.2 h)]
  rfl

theorem State.inputAnswer_eq : s.inputAnswer = s.inputs.headD (Config.input s.inputCalls) := by
  rw [State.inputAnswer]
  cases s.inputs <;> rfl

/-- The strobe's fall asks the input. -/
theorem State.strobeWrite_fall (h : d &&& 0x01 = 0) (hs : s.pad.strobe = true) : s.strobeWrite d = { s with
    pad := ⟨false, s.inputAnswer, loByte s.inputAnswer, hiByte s.inputAnswer⟩
    inputs := s.inputs.tail, inputCalls := s.inputCalls + 1 } := by
  rw [State.strobeWrite, if_neg (by rw [getLsbD_zero_eq_false_iff.2 h]; decide), if_pos hs]
  rfl

theorem State.strobeWrite_low (h : d &&& 0x01 = 0) (hs : s.pad.strobe = false) : s.strobeWrite d = s := by
  rw [State.strobeWrite, if_neg (by rw [getLsbD_zero_eq_false_iff.2 h]; decide), if_neg (by simp [hs])]

/-- The bits of a shift register in which a read puts a 1 from the top: its own eight, then ones. -/
def serialBitAt (r : Byte) (k : Nat) : Byte := if k < 8 then (r >>> k) &&& 0x01 else 0x01

/-- The bits after a read are the bits before it from the second on. -/
theorem serialBitAt_shifted (r : Byte) (k : Nat) : serialBitAt ((r >>> 1) ||| 0x80) k = serialBitAt r (k + 1) := by
  have hbits : ∀ (r : Byte) (k : Fin 8), serialBitAt ((r >>> 1) ||| 0x80) k.val = serialBitAt r (k.val + 1) := by
    decide +kernel
  by_cases hk : k < 8
  · exact hbits r ⟨k, hk⟩
  · rw [serialBitAt, serialBitAt, if_neg hk, if_neg (by omega)]

theorem State.read_port1 (s : State) :
    s.read 0x4016 = (s.pad.serialBit false, { s with pad := s.pad.shifted false }) := rfl

theorem State.read_port2 (s : State) :
    s.read 0x4017 = (s.pad.serialBit true, { s with pad := s.pad.shifted true }) := rfl

/-- With the strobe low a read of the first port takes bit 0 of its register and shifts a 1 in. -/
theorem Pad.read_low {p : Pad} (h : p.strobe = false) :
    p.serialBit false = serialBitAt p.shift0 0 ∧ p.shifted false = { p with shift0 := (p.shift0 >>> 1) ||| 0x80 } := by
  have hshifter : p.shifter false = p.shift0 := if_neg (by simp [h])
  refine ⟨?_, by rw [Pad.shifted, hshifter]; rfl⟩
  rw [Pad.serialBit, hshifter, serialBitAt, if_pos (by decide), BitVec.ushiftRight_zero]

/-- With the strobe low the reads of the first port give its register bit by bit. -/
theorem portReads_eq (n : Nat) : ∀ s : State, s.pad.strobe = false →
    Claims.portReads 0x4016 n s = (List.range n).map (serialBitAt s.pad.shift0) := by
  induction n with
  | zero => exact fun _ _ => rfl
  | succ n ih =>
    intro s hs
    obtain ⟨hbit, hshifted⟩ := Pad.read_low hs
    have hrest := ih { s with pad := s.pad.shifted false } (by rw [hshifted]; exact hs)
    rw [Claims.portReads, State.read_port1, hrest, hbit, hshifted, List.range_succ_eq_map, List.map_cons, List.map_map]
    exact congrArg _ (List.map_congr_left fun k _ => serialBitAt_shifted _ k)

theorem State.write_port (s : State) : s.write 0x4016 d = s.strobeWrite d := rfl

end Controllers

/-- Settles O46: each port is one register, and a read moves its bits down by one place under a 1. -/
theorem controllerPorts : Obligations.ControllerPorts := by
  unfold Obligations.ControllerPorts
  intro s d
  refine ⟨s.read_port1, s.read_port2, State.strobeWrite_high, ?_, State.strobeWrite_low, fun h n => portReads_eq n s h⟩
  rintro h hs answer rfl
  rw [← State.inputAnswer_eq]
  exact State.strobeWrite_fall h hs

/-! ### An address pair on `$2006` (50_ppu R331, R342) -/

section AddressPair

variable {s : State} {a : Word} {d : Byte}

/-- Where no tick is owed a catch-up does nothing. -/
theorem State.catchUp_of_synced (h : s.ppu.lastSynced = s.cycles) : s.catchUp = s := by
  have hreplayed : s.replayed = (s.ppu, s.pending) := by
    rw [State.replayed, State.ticksOwed, h, Nat.sub_self]
    rfl
  have hppu : { s.ppu with lastSynced := s.cycles } = s.ppu := by rw [← h]
  have hcatch : s.catchUp = { s with ppu := { s.ppu with lastSynced := s.cycles } } := by
    rw [State.catchUp, hreplayed]
  exact hcatch.trans (congrArg (fun q => { s with ppu := q }) hppu)

/-- The first write of an address pair, where no tick is owed. -/
theorem State.write_addr_first (hs : s.ppu.lastSynced = s.cycles) (hwindow : 0x2000 ≤ a.toNat ∧ a.toNat < 0x4000)
    (hr : a.toNat % 8 = 6) (hw : s.ppu.w = false) :
    s.write a d = { s with ppu := { s.ppu with latch := d, t := addrHighT s.ppu.t d, w := true } } := by
  have hreg := Ppu.writeReg_addr_first s.cart s.params s.ppu d hw
  conv_rhs => rw [← State.catchUp_of_synced hs]
  exact State.write_register s a d hwindow hr (by rw [State.catchUp_of_synced hs]; exact hreg)

/-- The second write sets `v`. -/
theorem State.write_addr_second (hs : s.ppu.lastSynced = s.cycles) (hwindow : 0x2000 ≤ a.toNat ∧ a.toNat < 0x4000)
    (hr : a.toNat % 8 = 6) (hw : s.ppu.w = true) : s.write a d = { s with ppu := { s.ppu with
      latch := d, t := addrLowT s.ppu.t d, v := addrLowT s.ppu.t d, w := false } } := by
  have hreg := Ppu.writeReg_addr_second s.cart s.params s.ppu d hw
  conv_rhs => rw [← State.catchUp_of_synced hs]
  exact State.write_register s a d hwindow hr (by rw [State.catchUp_of_synced hs]; exact hreg)

/-- The address an address pair puts into `t`. -/
theorem addrPair_toNat (t : BitVec 15) (hi lo : Byte) :
    (addrLowT (addrHighT t hi) lo).toNat = 256 * (hi.toNat % 64) + lo.toNat := by
  obtain ⟨hhigh, htop, -⟩ := addrHighT_fields t hi
  obtain ⟨hlow, hkept⟩ := addrLowT_fields (addrHighT t hi) lo
  rw [← BitVec.toNat_inj] at hhigh hlow hkept
  rw [BitVec.getLsbD, Nat.testBit_eq_decide_div_mod_eq, decide_eq_false_iff_not] at htop
  simp only [BitVec.extractLsb'_toNat, Nat.shiftRight_eq_div_pow] at hhigh hlow hkept
  have h1 := (addrHighT t hi).isLt
  have h2 := (addrLowT (addrHighT t hi) lo).isLt
  omega

end AddressPair

/-- Settles O50: the status read replays the ticks that are owed and clears the toggle, so that the two writes are
a first and a second one. -/
theorem addressPairSetsV : Obligations.AddressPairSetsV := by
  unfold Obligations.AddressPairSetsV
  intro s a b c hi lo ha ha' hra hb hb' hrb hc hc' hrc
  rw [State.read_register s a ⟨ha, ha'⟩ hra (Ppu.readReg_status _ _ _),
    State.write_addr_first rfl ⟨hb, hb'⟩ hrb rfl, State.write_addr_second rfl ⟨hc, hc'⟩ hrc rfl]
  exact ⟨addrPair_toNat _ hi lo, rfl, rfl, rfl, rfl⟩

/-! ### The PPU bus (20_memory R110–R115) -/

section PpuBus

variable (cart : Option Cartridge) (params : Params) (p : Ppu) (a b : BitVec 14) (v : Byte)

/-- A mask of low ones keeps the remainder. -/
theorem toNat_and_3FF : (a &&& 0x3FF).toNat = a.toNat % 0x400 :=
  (BitVec.toNat_and ..).trans (Nat.and_two_pow_sub_one_eq_mod _ 10)

theorem toNat_and_1F : (a &&& 0x1F).toNat = a.toNat % 32 :=
  (BitVec.toNat_and ..).trans (Nat.and_two_pow_sub_one_eq_mod _ 5)

theorem mirror_eq_table (mode : Mirroring) (four : Vector (Fin 2) 4) (q : Fin 4) :
    (mirror mode four q).val = Claims.table mode four q.val := by
  cases mode with
  | horizontal =>
    have htable : ∀ q : Fin 4, (#v[0, 0, 1, 1] : Vector (Fin 2) 4)[q].val = if q.val < 2 then 0 else 1 := by decide
    exact htable q
  | vertical =>
    have htable : ∀ q : Fin 4, (#v[0, 1, 0, 1] : Vector (Fin 2) 4)[q].val = q.val % 2 := by decide
    exact htable q
  | single0 => rfl
  | single1 => rfl
  | fourScreen =>
    simp [mirror, Claims.table, q.isLt]

/-- The key of a nametable address is its physical table and its offset there. -/
theorem ciramIndex_eq : ciramIndex cart params a =
    1024 * (Claims.nametableByte cart params a).1 + (Claims.nametableByte cart params a).2 := by
  rw [ciramIndex, mirror_eq_table, toNat_and_3FF]
  rfl

theorem ciramIndex_eq_iff : ciramIndex cart params b = ciramIndex cart params a ↔
    Claims.nametableByte cart params a = Claims.nametableByte cart params b := by
  have ha : (Claims.nametableByte cart params a).2 < 1024 := Nat.mod_lt _ (by decide)
  have hb : (Claims.nametableByte cart params b).2 < 1024 := Nat.mod_lt _ (by decide)
  rw [ciramIndex_eq, ciramIndex_eq, Prod.ext_iff]
  omega

theorem palIndex_eq : palIndex a = Claims.paletteEntry a := by
  rw [palIndex, Claims.paletteEntry, toNat_and_1F]
  have hmod : a.toNat % 32 % 4 = a.toNat % 4 := Nat.mod_mod_of_dvd _ (by decide)
  rw [hmod]

/-! One rule for each range of the address written, and one for each range of the address read. -/

theorem Ppu.busWrite_pattern (h : a.toNat < 0x2000) : p.busWrite cart params a v = (p, cartWriteChr cart a v) :=
  if_pos h

theorem Ppu.busWrite_nametable (h : 0x2000 ≤ a.toNat) (h' : a.toNat < 0x3F00) : p.busWrite cart params a v =
    ({ p with ciram := p.ciram.write (ciramIndex cart params a) v }, cart) :=
  (if_neg (by omega)).trans (if_pos h')

theorem Ppu.busWrite_palette (h : 0x3F00 ≤ a.toNat) : p.busWrite cart params a v =
    ({ p with palette := p.palette.write (palIndex a) v }, cart) :=
  (if_neg (by omega)).trans (if_neg (by omega))

theorem Ppu.busRead_pattern (h : a.toNat < 0x2000) : p.busRead cart params a = cartReadChr cart a :=
  if_pos h

theorem Ppu.busRead_nametable (h : 0x2000 ≤ a.toNat) (h' : a.toNat < 0x3F00) :
    p.busRead cart params a = p.ciram.read (ciramIndex cart params a) :=
  (if_neg (by omega)).trans (if_pos h')

theorem Ppu.busRead_palette (h : 0x3F00 ≤ a.toNat) : p.busRead cart params a = p.palette.read (palIndex a) :=
  (if_neg (by omega)).trans (if_neg (by omega))

/-- Pattern memory after a write: only CHR RAM takes it, through the mask (52_cartridge R411). -/
theorem Cartridge.readChr_writeChr (c : Cartridge) : (c.writeChr a v).readChr b =
    if c.chrIsRam = true ∧ a.toNat &&& c.chrMask = b.toNat &&& c.chrMask then v else c.readChr b := by
  cases hram : c.chrIsRam with
  | false => simp [Cartridge.writeChr_rom c a v hram]
  | true =>
    rw [Cartridge.readChr, Cartridge.writeChr_chrMask, Cartridge.writeChr, if_pos hram, Mem.read_write]
    simp only [true_and, eq_comm (a := b.toNat &&& c.chrMask)]
    rfl

end PpuBus

/-- Settles O51, range by range of the address written. -/
theorem ppuBusReadAfterWrite : Obligations.PpuBusReadAfterWrite := by
  unfold Obligations.PpuBusReadAfterWrite
  intro cart params p q cart' a b v h
  refine ⟨fun ha ha' hb hb' => ?nametable, fun ha hb => ?palette, ?pattern, fun ha => ?ppu, fun ha => ?cart⟩
  case nametable =>
    rw [Ppu.busWrite_nametable _ _ _ _ _ ha ha', Prod.mk.injEq] at h
    obtain ⟨rfl, rfl⟩ := h
    rw [Ppu.busRead_nametable _ _ _ _ hb hb', Ppu.busRead_nametable _ _ _ _ hb hb', Mem.read_write]
    simp only [ciramIndex_eq_iff]
  case palette =>
    rw [Ppu.busWrite_palette _ _ _ _ _ ha, Prod.mk.injEq] at h
    obtain ⟨rfl, rfl⟩ := h
    rw [Ppu.busRead_palette _ _ _ _ hb, Ppu.busRead_palette _ _ _ _ hb, Mem.read_write]
    simp only [palIndex_eq, eq_comm (a := Claims.paletteEntry b)]
  case pattern =>
    rintro c rfl ha hb
    rw [Ppu.busWrite_pattern _ _ _ _ _ ha, Prod.mk.injEq] at h
    obtain ⟨rfl, rfl⟩ := h
    rw [Ppu.busRead_pattern _ _ _ _ hb, Ppu.busRead_pattern _ _ _ _ hb]
    exact Cartridge.readChr_writeChr a b v c
  case ppu =>
    rw [Ppu.busWrite_pattern _ _ _ _ _ ha, Prod.mk.injEq] at h
    exact h.1.symm
  case cart =>
    by_cases hpal : a.toNat < 0x3F00
    · rw [Ppu.busWrite_nametable _ _ _ _ _ ha hpal, Prod.mk.injEq] at h
      exact h.2.symm
    · rw [Ppu.busWrite_palette _ _ _ _ _ (by omega), Prod.mk.injEq] at h
      exact h.2.symm

end Sys2Proof.Machine

/-! ## The ticks of the picture processor (51_ppu, 60_exceptions section 2): the statements O52, O53 and O54 -/

namespace Sys2Proof.Machine

/-! ### A tick field by field (51_ppu R361) -/

section TickFields

variable (cart : Option Cartridge) (params : Params) (p r : Ppu)

/-- The place where vblank begins (51_ppu R384). -/
def Ppu.atVblank (r : Ppu) : Bool := r.scanline == 241 && r.dot == 1

/-- The place where the status flags are cleared (51_ppu R385). -/
def Ppu.atClear (r : Ppu) : Bool := r.scanline == 261 && r.dot == 1

/-- A pixel is rendered at this place (51_ppu R361, sub-step 3a). -/
def Ppu.draws (r : Ppu) : Bool := r.renderingEnabled && (r.visibleLine && r.visibleDot)

/-- The background pipeline moves at this place (sub-step 3b). -/
def Ppu.fetches (r : Ppu) : Bool := r.renderingEnabled && (r.renderLine && r.fetchDot)

/-- The register after its shift and, at every eighth dot, the fold (51_ppu R366, R371). -/
def Ppu.shiftedTile (r : Ppu) : BitVec 64 :=
  if r.dot % 8 = 0 then ({ r with tileData := r.tileData <<< 4 } : Ppu).foldTile.tileData else r.tileData <<< 4

/-- `v` after the scroll updates of a render line (sub-steps 3c and 3d). -/
def Ppu.scrolledV (r : Ppu) : BitVec 15 :=
  if r.dot = 256 then incrementY (incrementX r.v)
  else if r.dot = 257 then copyX r.v r.t
  else if r.scanline = 261 ∧ 280 ≤ r.dot ∧ r.dot ≤ 304 then copyY r.v r.t
  else if r.fetchDot = true ∧ r.dot % 8 = 0 then incrementX r.v
  else r.v

/-- Every field after the fetch of one tick as a function of the fields before it. -/
theorem Ppu.backgroundFetch_eq : r.backgroundFetch cart params = { r with
    tileData := r.shiftedTile
    ntByte := if r.dot % 8 = 1 then r.busRead cart params r.ntAddr else r.ntByte
    atBits := if r.dot % 8 = 3 then ((r.busRead cart params r.atAddr >>> r.atShift) &&& 0x03).setWidth 4 <<< 2
      else r.atBits
    ptLo := if r.dot % 8 = 5 then r.busRead cart params r.bgPatternAddr else r.ptLo
    ptHi := if r.dot % 8 = 7 then r.busRead cart params (r.bgPatternAddr + 8) else r.ptHi } := by
  unfold Ppu.backgroundFetch Ppu.shiftedTile
  dsimp only
  split <;> simp_all <;> rfl

theorem Ppu.scrollStep_eq : r.scrollStep = { r with
    v := if r.dot = 256 then incrementY (incrementX r.v)
      else if r.dot = 257 then copyX r.v r.t
      else if r.fetchDot = true ∧ r.dot % 8 = 0 then incrementX r.v
      else r.v } := by
  unfold Ppu.scrollStep
  by_cases h6 : r.dot = 256
  · simp [h6, Ppu.fetchDot, Ppu.visibleDot]
  by_cases h7 : r.dot = 257
  · simp [h7, Ppu.fetchDot, Ppu.visibleDot, Ppu.prefetchDot]
  simp only [beq_iff_eq, h6, h7, if_false, Bool.and_eq_true]
  split <;> simp_all

/-- Off the fetch dots and dot 257 a scroll step leaves everything. -/
theorem Ppu.scrollStep_of_not_fetchDot (hfetch : r.fetchDot = false) (h7 : r.dot ≠ 257) : r.scrollStep = r := by
  have h6 : r.dot ≠ 256 := fun h => by simp [Ppu.fetchDot, Ppu.visibleDot, h] at hfetch
  rw [Ppu.scrollStep_eq, if_neg h6, if_neg h7, if_neg (by simp [hfetch])]

/-- The PPU with the fields that a rendered pixel writes. -/
def Ppu.setPixels (r : Ppu) (hit : Bool) (frame : Mem) : Ppu := { r with sprite0Hit := hit, frame := frame }

/-- The PPU with the fields of the background pipeline. -/
def Ppu.setTile (r : Ppu) (tile : BitVec 64) (nt : Byte) (atb : BitVec 4) (lo hi : Byte) : Ppu :=
  { r with tileData := tile, ntByte := nt, atBits := atb, ptLo := lo, ptHi := hi }

/-- The PPU with another `v`. -/
def Ppu.setV (r : Ppu) (v : BitVec 15) : Ppu := { r with v := v }

/-- Sub-steps 3c and 3d, the ones that write `v`. -/
def Ppu.scrollSteps (r : Ppu) : Ppu :=
  let q := if r.preLine && decide (280 ≤ r.dot) && decide (r.dot ≤ 304) then { r with v := copyY r.v r.t } else r
  if q.renderLine then q.scrollStep else q

theorem Ppu.scrollSteps_eq : r.scrollSteps = r.setV (if r.renderLine then r.scrolledV else r.v) := by
  unfold Ppu.scrollSteps
  by_cases hcopy : (r.preLine && decide (280 ≤ r.dot) && decide (r.dot ≤ 304)) = true
  · have h := hcopy
    simp only [Ppu.preLine, Bool.and_eq_true, beq_iff_eq, decide_eq_true_eq] at h
    obtain ⟨⟨hline, hlow⟩, hhigh⟩ := h
    have hrender : r.renderLine = true := by simp [Ppu.renderLine, Ppu.preLine, hline]
    have hfetch : r.fetchDot = false := by
      simp only [Ppu.fetchDot, Ppu.visibleDot, Ppu.prefetchDot, Bool.or_eq_false_iff, Bool.and_eq_false_iff,
        decide_eq_false_iff_not]
      omega
    have hv : r.scrolledV = copyY r.v r.t := by
      rw [Ppu.scrolledV, if_neg (by omega), if_neg (by omega), if_pos ⟨hline, hlow, hhigh⟩]
    rw [if_pos hcopy, if_pos hrender, hv]
    exact (if_pos hrender).trans
      (Ppu.scrollStep_of_not_fetchDot { r with v := copyY r.v r.t } hfetch (show r.dot ≠ 257 by omega))
  · have h : ¬ (r.scanline = 261 ∧ 280 ≤ r.dot ∧ r.dot ≤ 304) := by
      simpa [Ppu.preLine, and_assoc] using hcopy
    rw [if_neg hcopy, Ppu.scrolledV, if_neg h]
    dsimp only
    rw [Ppu.scrollStep_eq]
    split <;> rfl

/-- Sub-step 3a. -/
def Ppu.pixelStep (r : Ppu) : Ppu := if r.visibleLine && r.visibleDot then r.renderPixel else r

theorem Ppu.pixelStep_eq : r.pixelStep = r.setPixels
    (if r.visibleLine && r.visibleDot then r.renderPixel.sprite0Hit else r.sprite0Hit)
    (if r.visibleLine && r.visibleDot then r.renderPixel.frame else r.frame) := by
  unfold Ppu.pixelStep Ppu.setPixels
  split <;> rfl

/-- Sub-step 3b. -/
def Ppu.fetchStep (r : Ppu) : Ppu := if r.renderLine && r.fetchDot then r.backgroundFetch cart params else r

theorem Ppu.fetchStep_eq : r.fetchStep cart params = r.setTile
    (if r.renderLine && r.fetchDot then r.shiftedTile else r.tileData)
    (if (r.renderLine && r.fetchDot) && r.dot % 8 == 1 then r.busRead cart params r.ntAddr else r.ntByte)
    (if (r.renderLine && r.fetchDot) && r.dot % 8 == 3 then
      ((r.busRead cart params r.atAddr >>> r.atShift) &&& 0x03).setWidth 4 <<< 2 else r.atBits)
    (if (r.renderLine && r.fetchDot) && r.dot % 8 == 5 then r.busRead cart params r.bgPatternAddr else r.ptLo)
    (if (r.renderLine && r.fetchDot) && r.dot % 8 == 7 then r.busRead cart params (r.bgPatternAddr + 8)
      else r.ptHi) := by
  unfold Ppu.fetchStep Ppu.setTile
  cases r.renderLine && r.fetchDot with
  | false => rfl
  | true => simp [Ppu.backgroundFetch_eq]

theorem Ppu.spriteStep_eq : r.spriteStep cart params = { r with
    slots := if r.dot == 257 && r.visibleLine then (r.evaluateSprites cart params).slots else r.slots
    sprCount := if r.dot == 257 then if r.visibleLine then (r.evaluateSprites cart params).sprCount else 0
      else r.sprCount
    spriteOverflow := if r.dot == 257 && r.visibleLine then (r.evaluateSprites cart params).spriteOverflow
      else r.spriteOverflow } := by
  unfold Ppu.spriteStep
  cases r.dot == 257
  · rfl
  · cases r.visibleLine <;> rfl

/-! Each sub-step neither reads nor writes what the sub-steps before it write. -/

theorem Ppu.fetchStep_setPixels (hit : Bool) (frame : Mem) :
    (r.setPixels hit frame).fetchStep cart params = (r.fetchStep cart params).setPixels hit frame := by
  rw [Ppu.fetchStep_eq, Ppu.fetchStep_eq]
  rfl

theorem Ppu.scrollSteps_setTile (hit : Bool) (frame : Mem) (tile : BitVec 64) (nt : Byte) (atb : BitVec 4)
    (lo hi : Byte) : ((r.setTile tile nt atb lo hi).setPixels hit frame).scrollSteps =
      (r.scrollSteps.setTile tile nt atb lo hi).setPixels hit frame := by
  rw [Ppu.scrollSteps_eq, Ppu.scrollSteps_eq]
  rfl

theorem Ppu.spriteStep_setV (hit : Bool) (frame : Mem) (tile : BitVec 64) (nt : Byte) (atb : BitVec 4)
    (lo hi : Byte) (v : BitVec 15) :
    (((r.setV v).setTile tile nt atb lo hi).setPixels hit frame).spriteStep cart params =
      (((r.spriteStep cart params).setV v).setTile tile nt atb lo hi).setPixels hit frame := by
  rw [Ppu.spriteStep_eq, Ppu.spriteStep_eq]
  rfl

theorem Ppu.renderStep_eq : r.renderStep cart params =
    ((r.pixelStep.fetchStep cart params).scrollSteps).spriteStep cart params := rfl

/-- Sub-step 3 field by field, with the places at which a field is written. -/
def Ppu.rendered (r : Ppu) : Ppu := { r with
  sprite0Hit := if r.draws then r.renderPixel.sprite0Hit else r.sprite0Hit
  frame := if r.draws then r.renderPixel.frame else r.frame
  tileData := if r.fetches then r.shiftedTile else r.tileData
  ntByte := if r.fetches && r.dot % 8 == 1 then r.busRead cart params r.ntAddr else r.ntByte
  atBits := if r.fetches && r.dot % 8 == 3 then
    ((r.busRead cart params r.atAddr >>> r.atShift) &&& 0x03).setWidth 4 <<< 2 else r.atBits
  ptLo := if r.fetches && r.dot % 8 == 5 then r.busRead cart params r.bgPatternAddr else r.ptLo
  ptHi := if r.fetches && r.dot % 8 == 7 then r.busRead cart params (r.bgPatternAddr + 8) else r.ptHi
  v := if r.renderingEnabled && r.renderLine then r.scrolledV else r.v
  slots := if r.renderingEnabled && r.dot == 257 && r.visibleLine then (r.evaluateSprites cart params).slots
    else r.slots
  sprCount := if r.renderingEnabled && r.dot == 257 then
    if r.visibleLine then (r.evaluateSprites cart params).sprCount else 0 else r.sprCount
  spriteOverflow := if r.renderingEnabled && r.dot == 257 && r.visibleLine then
    (r.evaluateSprites cart params).spriteOverflow else r.spriteOverflow }

theorem Ppu.rendered_eq : (if r.renderingEnabled then r.renderStep cart params else r) = r.rendered cart params := by
  cases hon : r.renderingEnabled with
  | false => simp [Ppu.rendered, Ppu.draws, Ppu.fetches, hon]
  | true =>
    rw [if_pos rfl, Ppu.renderStep_eq, Ppu.pixelStep_eq, Ppu.fetchStep_setPixels, Ppu.fetchStep_eq,
      Ppu.scrollSteps_setTile, Ppu.scrollSteps_eq, Ppu.spriteStep_setV, Ppu.spriteStep_eq, Ppu.rendered, Ppu.draws,
      Ppu.fetches, hon]
    rfl

/-- The beginning of vblank raises the NMI line where bit 7 of `$2000` is set (60_exceptions R434, R435). -/
theorem Ppu.vblankBegin_eq : r.vblankBegin params = { r with
    vblank := true
    nmiDelay := if r.ctrl.getLsbD 7 && !r.nmiPrevious then params.nmiDelayTicks else r.nmiDelay
    nmiPrevious := r.ctrl.getLsbD 7
    frameReady := true
    delivered := r.frame :: r.delivered } := by
  have hline : ({ r with vblank := true } : Ppu).nmiLine = r.ctrl.getLsbD 7 := Bool.and_true _
  rw [Ppu.vblankBegin, Ppu.nmiChange, hline]

/-- The clearing of the flags drops the NMI line. -/
theorem Ppu.flagsClear_eq : r.flagsClear params = { r with
    vblank := false, nmiPrevious := false, sprite0Hit := false, spriteOverflow := false } := by
  have hline : ({ r with vblank := false } : Ppu).nmiLine = false := Bool.and_false _
  rw [Ppu.flagsClear, Ppu.nmiChange, hline]
  rfl

/-- Sub-steps 4 and 5 field by field. -/
def Ppu.ended (r : Ppu) : Ppu := { r with
  vblank := r.atVblank || !r.atClear && r.vblank
  nmiDelay := if r.atVblank && r.ctrl.getLsbD 7 && !r.nmiPrevious then params.nmiDelayTicks else r.nmiDelay
  nmiPrevious := if r.atVblank then r.ctrl.getLsbD 7 else !r.atClear && r.nmiPrevious
  frameReady := r.atVblank || r.frameReady
  delivered := if r.atVblank then r.frame :: r.delivered else r.delivered
  sprite0Hit := !r.atClear && r.sprite0Hit
  spriteOverflow := !r.atClear && r.spriteOverflow }

theorem Ppu.ended_eq :
    (let q := if r.scanline == 241 && r.dot == 1 then r.vblankBegin params else r
    if q.scanline == 261 && q.dot == 1 then q.flagsClear params else q) = r.ended params := by
  cases hv : r.scanline == 241 && r.dot == 1 with
  | true =>
    have hclear : (r.scanline == 261 && r.dot == 1) = false := by
      rw [beq_iff_eq.1 (Bool.and_eq_true_iff.1 hv).1]
      rfl
    rw [if_pos rfl, Ppu.vblankBegin_eq, Ppu.ended, Ppu.atVblank, Ppu.atClear, hv, hclear]
    exact if_neg (by rw [hclear]; decide)
  | false =>
    simp only [Bool.false_eq_true, if_false]
    rw [Ppu.ended, Ppu.atVblank, Ppu.atClear, hv]
    cases hc : r.scanline == 261 && r.dot == 1 with
    | true => exact (if_pos rfl).trans (r.flagsClear_eq params)
    | false => rfl

/-- The position advance moves the position and the parity alone. -/
theorem Ppu.advance_eq :
    p.advance = { p with dot := p.advance.dot, scanline := p.advance.scanline, odd := p.advance.odd } := by
  unfold Ppu.advance
  split
  · rfl
  split
  · rfl
  split <;> rfl

/-- A tick is its position advance and what happens at the new place. -/
theorem Ppu.tick_fst (tag : Pending) : (Ppu.tick cart params (p, tag)).1 =
    (p.nmiCountdown.advance.rendered cart params).ended params := by
  rw [← Ppu.rendered_eq, ← Ppu.ended_eq]
  rfl

theorem Ppu.tick_odd (tag : Pending) : (Ppu.tick cart params (p, tag)).1.odd = p.nmiCountdown.advance.odd :=
  (congrArg Ppu.odd (Ppu.tick_fst cart params p tag)).trans rfl

/-- A tick, from the PPU placed where the tick ends. -/
theorem Ppu.tick_eq {q : Ppu} (tag : Pending) (hq : q = (Ppu.tick cart params (p, tag)).1)
    (hr : r = { p with dot := q.dot, scanline := q.scanline }) :
    q = { (r.nmiCountdown.rendered cart params).ended params with odd := q.odd } := by
  obtain ⟨hdot, hline, -⟩ := Ppu.tick_place cart params p tag
  have hodd := Ppu.tick_odd cart params p tag
  have hend := Ppu.tick_fst cart params p tag
  rw [← hq] at hdot hline hodd hend
  rw [Ppu.advance_eq, ← hdot, ← hline] at hend
  rw [hodd, hr]
  exact hend

end TickFields

/-! ### What a tick leaves in each field -/

section TickEnd

variable {cart : Option Cartridge} {params : Params} {p q r : Ppu} {tag : Pending}
  (hq : q = (Ppu.tick cart params (p, tag)).1)
include hq

theorem Ppu.tick_vblank : q.vblank = (q.atVblank || !q.atClear && p.vblank) :=
  (congrArg Ppu.vblank (Ppu.tick_eq cart params p _ tag hq rfl)).trans rfl

theorem Ppu.tick_nmiPrevious :
    q.nmiPrevious = if q.atVblank then p.ctrl.getLsbD 7 else !q.atClear && p.nmiPrevious :=
  (congrArg Ppu.nmiPrevious (Ppu.tick_eq cart params p _ tag hq rfl)).trans rfl

theorem Ppu.tick_nmiDelay : q.nmiDelay =
    if q.atVblank && p.ctrl.getLsbD 7 && !p.nmiPrevious then params.nmiDelayTicks else p.nmiDelay - 1 :=
  (congrArg Ppu.nmiDelay (Ppu.tick_eq cart params p _ tag hq rfl)).trans rfl

theorem Ppu.tick_frameReady : q.frameReady = (q.atVblank || p.frameReady) :=
  (congrArg Ppu.frameReady (Ppu.tick_eq cart params p _ tag hq rfl)).trans rfl

theorem Ppu.tick_delivered : q.delivered = if q.atVblank then q.frame :: p.delivered else p.delivered := by
  rw [Ppu.tick_eq cart params p _ tag hq rfl]
  rfl

theorem Ppu.tick_ntByte : q.ntByte =
    if (p.renderingEnabled && (q.renderLine && q.fetchDot)) && q.dot % 8 == 1 then p.busRead cart params p.ntAddr
    else p.ntByte :=
  (congrArg Ppu.ntByte (Ppu.tick_eq cart params p _ tag hq rfl)).trans rfl

theorem Ppu.tick_atBits : q.atBits =
    if (p.renderingEnabled && (q.renderLine && q.fetchDot)) && q.dot % 8 == 3 then
      ((p.busRead cart params p.atAddr >>> p.atShift) &&& 0x03).setWidth 4 <<< 2
    else p.atBits :=
  (congrArg Ppu.atBits (Ppu.tick_eq cart params p _ tag hq rfl)).trans rfl

theorem Ppu.tick_ptLo : q.ptLo =
    if (p.renderingEnabled && (q.renderLine && q.fetchDot)) && q.dot % 8 == 5 then
      p.busRead cart params p.bgPatternAddr
    else p.ptLo :=
  (congrArg Ppu.ptLo (Ppu.tick_eq cart params p _ tag hq rfl)).trans rfl

theorem Ppu.tick_ptHi : q.ptHi =
    if (p.renderingEnabled && (q.renderLine && q.fetchDot)) && q.dot % 8 == 7 then
      p.busRead cart params (p.bgPatternAddr + 8)
    else p.ptHi :=
  (congrArg Ppu.ptHi (Ppu.tick_eq cart params p _ tag hq rfl)).trans rfl

variable (hr : r = { p with dot := q.dot, scanline := q.scanline })
include hr

theorem Ppu.tick_v : q.v = if p.renderingEnabled && q.renderLine then r.scrolledV else p.v := by
  subst hr
  exact (congrArg Ppu.v (Ppu.tick_eq cart params p _ tag hq rfl)).trans rfl

theorem Ppu.tick_tileData : q.tileData =
    if p.renderingEnabled && (q.renderLine && q.fetchDot) then r.shiftedTile else p.tileData := by
  subst hr
  exact (congrArg Ppu.tileData (Ppu.tick_eq cart params p _ tag hq rfl)).trans rfl

theorem Ppu.tick_frame : q.frame = if p.renderingEnabled && (q.visibleLine && q.visibleDot) then
    p.frame.write (256 * q.scanline + (q.dot - 1)) (r.pixelByte (q.dot - 1)) else p.frame := by
  subst hr
  exact (congrArg Ppu.frame (Ppu.tick_eq cart params p _ tag hq rfl)).trans rfl

theorem Ppu.tick_sprite0Hit : q.sprite0Hit = (!q.atClear &&
    if p.renderingEnabled && (q.visibleLine && q.visibleDot) then p.sprite0Hit || r.spriteZeroHits (q.dot - 1)
    else p.sprite0Hit) := by
  subst hr
  exact (congrArg Ppu.sprite0Hit (Ppu.tick_eq cart params p _ tag hq rfl)).trans rfl

theorem Ppu.tick_slots : q.slots = if p.renderingEnabled && q.dot == 257 && q.visibleLine then
    (r.evaluateSprites cart params).slots else p.slots := by
  subst hr
  exact (congrArg Ppu.slots (Ppu.tick_eq cart params p _ tag hq rfl)).trans rfl

theorem Ppu.tick_sprCount : q.sprCount = if p.renderingEnabled && q.dot == 257 then
    if q.visibleLine then (r.evaluateSprites cart params).sprCount else 0 else p.sprCount := by
  subst hr
  exact (congrArg Ppu.sprCount (Ppu.tick_eq cart params p _ tag hq rfl)).trans rfl

theorem Ppu.tick_spriteOverflow : q.spriteOverflow = (!q.atClear &&
    if p.renderingEnabled && q.dot == 257 && q.visibleLine then (r.evaluateSprites cart params).spriteOverflow
    else p.spriteOverflow) := by
  subst hr
  exact (congrArg Ppu.spriteOverflow (Ppu.tick_eq cart params p _ tag hq rfl)).trans rfl

end TickEnd

section Places

variable {p : Ppu}

theorem Ppu.atVblank_iff : p.atVblank = true ↔ p.scanline = 241 ∧ p.dot = 1 := by
  rw [Ppu.atVblank, Bool.and_eq_true, beq_iff_eq, beq_iff_eq]

theorem Ppu.atClear_iff : p.atClear = true ↔ p.scanline = 261 ∧ p.dot = 1 := by
  rw [Ppu.atClear, Bool.and_eq_true, beq_iff_eq, beq_iff_eq]

theorem Ppu.visibleLine_iff : p.visibleLine = true ↔ p.scanline < 240 := decide_eq_true_iff

theorem Ppu.visibleDot_iff : p.visibleDot = true ↔ 1 ≤ p.dot ∧ p.dot ≤ 256 := by
  rw [Ppu.visibleDot, Bool.and_eq_true, decide_eq_true_iff, decide_eq_true_iff]

/-- Rendering is enabled by one of two bits of the mask. -/
theorem Ppu.renderingEnabled_eq : p.renderingEnabled = Claims.rendering p := by
  have hmask : ∀ m : Byte, (m.getLsbD 3 || m.getLsbD 4) = (m &&& 0x18 != 0) := by decide +kernel
  exact hmask p.mask

end Places

/-- Settles O54: the sequencer's end is a function of the place where the tick ends. -/
theorem vblankWindow : Obligations.VblankWindow := by
  unfold Obligations.VblankWindow
  intro cart params p q tag tag' ht
  have hq : q = (Ppu.tick cart params (p, tag)).1 := by rw [ht]
  have hvblank := Ppu.tick_vblank hq
  have hprevious := Ppu.tick_nmiPrevious hq
  have hdelay := Ppu.tick_nmiDelay hq
  have hdelivered := Ppu.tick_delivered hq
  have hready := Ppu.tick_frameReady hq
  rw [hvblank, hprevious, hdelay, hdelivered, hready]
  refine ⟨fun hline hdot => ?begins, fun hline hdot => ?clears, fun h => ?notBegin, fun h h' => ?neither⟩
  case begins =>
    have hat : q.atVblank = true := Ppu.atVblank_iff.2 ⟨hline, hdot⟩
    have hframe : q.frame = p.frame := by
      have hhidden : q.visibleLine = false := by rw [Ppu.visibleLine, hline]; rfl
      rw [Ppu.tick_frame hq rfl, hhidden, Bool.false_and, Bool.and_false]
      rfl
    rw [hat, hframe, ← getLsbD_seven]
    refine ⟨rfl, rfl, rfl, rfl, rfl, ?_⟩
    rw [getLsbD_seven]
    cases p.nmiPrevious <;> simp
  case clears =>
    have hclear : q.atClear = true := Ppu.atClear_iff.2 ⟨hline, hdot⟩
    have hat : q.atVblank = false := by rw [Ppu.atVblank, hline]; rfl
    have hdark : q.vblank = false := by rw [hvblank, hat, hclear]; rfl
    rw [hat, hclear, Ppu.tick_sprite0Hit hq rfl, Ppu.tick_spriteOverflow hq rfl, hclear, Ppu.nmiLine, hdark]
    exact ⟨rfl, rfl, rfl, rfl, Bool.and_false _, rfl⟩
  case notBegin =>
    have hat : q.atVblank = false := Bool.eq_false_iff.2 (mt Ppu.atVblank_iff.1 h)
    rw [hat]
    exact ⟨rfl, rfl⟩
  case neither =>
    have hat : q.atVblank = false := Bool.eq_false_iff.2 (mt Ppu.atVblank_iff.1 h)
    have hclear : q.atClear = false := Bool.eq_false_iff.2 (mt Ppu.atClear_iff.1 h')
    rw [hat, hclear]
    exact ⟨rfl, rfl, rfl⟩

/-! ### An NMI on its way (60_exceptions R435, R436) -/

section Nmi

variable {cart : Option Cartridge} {params : Params} {p q : Ppu} {tag : Pending}

theorem Ppu.tick_tag : (Ppu.tick cart params (p, tag)).2 = if p.nmiDelivers then .nmi else tag := rfl

theorem Ppu.nmiDelivers_iff : p.nmiDelivers = true ↔ p.nmiDelay = 1 ∧ p.nmiLine = true := by
  rw [Ppu.nmiDelivers, Bool.and_eq_true, beq_iff_eq]

/-- The detector knows the line after a tick if it did before. -/
theorem Ppu.tick_nmiPrevious_eq_nmiLine (hq : q = (Ppu.tick cart params (p, tag)).1)
    (h : p.nmiPrevious = p.nmiLine) : q.nmiPrevious = q.nmiLine := by
  have hctrl : q.ctrl = p.ctrl := hq ▸ (Ppu.tick_same cart params (p, tag)).ctrl
  rw [Ppu.nmiLine, Ppu.tick_nmiPrevious hq, Ppu.tick_vblank hq, hctrl, h, Ppu.nmiLine]
  cases q.atVblank with
  | true => exact (Bool.and_true _).symm
  | false => exact Bool.and_left_comm _ _ _

/-- While the line stays high, a tick with more than one tick left only counts down. -/
theorem nmi_counts_down (n : Nat) (hdelay : p.nmiDelay = n + 1) (hprevious : p.nmiPrevious = p.nmiLine)
    (hline : ∀ k ≤ n, ((Ppu.tick cart params)^[k] (p, tag)).1.nmiLine = true) :
    ∀ k ≤ n, ((Ppu.tick cart params)^[k] (p, tag)).1.nmiDelay = n + 1 - k ∧
      ((Ppu.tick cart params)^[k] (p, tag)).1.nmiPrevious = true ∧
      ((Ppu.tick cart params)^[k] (p, tag)).2 = tag := by
  intro k
  induction k with
  | zero => exact fun _ => ⟨hdelay, hprevious.trans (hline 0 (Nat.zero_le n)), rfl⟩
  | succ k ih =>
    intro hk
    obtain ⟨hd, hp, ht⟩ := ih (by omega)
    have hl := hline k (by omega)
    have hl' := hline (k + 1) hk
    rw [Function.iterate_succ_apply'] at hl' ⊢
    generalize (Ppu.tick cart params)^[k] (p, tag) = u at *
    refine ⟨?_, ?_, ?_⟩
    · rw [Ppu.tick_nmiDelay (p := u.1) (tag := u.2) rfl, hp, Bool.not_true, Bool.and_false,
        if_neg Bool.false_ne_true, hd]
      omega
    · exact (Ppu.tick_nmiPrevious_eq_nmiLine (p := u.1) (tag := u.2) rfl (hp.trans hl.symm)).trans hl'
    · have hnot : ¬ (u.1.nmiDelivers = true) := by
        rw [Ppu.nmiDelivers_iff, hd]
        omega
      exact (if_neg hnot).trans ht

end Nmi

/-- Settles O52: the ticks before the last count down, and the last one finds 1 left. -/
theorem nmiArrivesAfterItsDelay : Obligations.NmiArrivesAfterItsDelay := by
  unfold Obligations.NmiArrivesAfterItsDelay
  intro cart params p tag n
  refine ⟨fun hdelay hprevious hline => ?_, fun h => ?_⟩
  · have hcount := nmi_counts_down n hdelay hprevious hline
    refine ⟨fun k hk => (hcount k hk).2.2, ?_⟩
    obtain ⟨hd, -, -⟩ := hcount n le_rfl
    rw [Function.iterate_succ_apply']
    exact if_pos (Ppu.nmiDelivers_iff.2 ⟨by omega, hline n le_rfl⟩)
  · refine if_neg fun hdeliver => ?_
    obtain ⟨hone, hhigh⟩ := Ppu.nmiDelivers_iff.1 hdeliver
    rcases h with h | h
    · exact h hone
    · exact Bool.false_ne_true (h.symm.trans hhigh)

/-! ### The length of a frame (51_ppu R362, R363) -/

section FrameLength

variable (cart : Option Cartridge) (params : Params)

/-- The positions there are. -/
def Ppu.OnGrid (p : Ppu) : Prop := p.dot ≤ 340 ∧ p.scanline ≤ 261

/-- The last position of the frame: the last dot is skipped on an odd frame with rendering on. -/
def Ppu.lastPosition (p : Ppu) : Nat := if p.renderingEnabled = true ∧ p.odd = true then 89340 else 89341

theorem Ppu.advance_before_last {p : Ppu} (hgrid : p.OnGrid) (h : Claims.position p < p.lastPosition) :
    p.advance.OnGrid ∧ Claims.position p.advance = Claims.position p + 1 ∧ p.advance.odd = p.odd := by
  obtain ⟨hdot, hline⟩ := hgrid
  unfold Ppu.lastPosition Claims.position at *
  have hskip : ¬ ((p.renderingEnabled && p.odd && p.scanline == 261 && p.dot == 339) = true) := by
    intro hs
    simp only [Bool.and_eq_true, beq_iff_eq] at hs
    obtain ⟨⟨⟨hr, ho⟩, hl⟩, hd⟩ := hs
    rw [if_pos ⟨hr, ho⟩] at h
    omega
  have hlast : 341 * p.scanline + p.dot < 89341 := by split at h <;> omega
  rw [Ppu.advance, if_neg hskip]
  split
  · exact ⟨⟨‹_›, hline⟩, rfl, rfl⟩
  · rw [if_pos (by omega)]
    exact ⟨⟨Nat.zero_le _, by show p.scanline + 1 ≤ 261; omega⟩,
      by show 341 * (p.scanline + 1) + 0 = _; omega, rfl⟩

theorem Ppu.advance_at_last {p : Ppu} (hgrid : p.OnGrid) (h : Claims.position p = p.lastPosition) :
    Claims.position p.advance = 0 ∧ p.advance.odd = !p.odd := by
  obtain ⟨hdot, hline⟩ := hgrid
  unfold Ppu.lastPosition Claims.position at *
  by_cases hodd : p.renderingEnabled = true ∧ p.odd = true
  · rw [if_pos hodd] at h
    rw [Ppu.advance, if_pos (by simp [hodd]; omega)]
    exact ⟨rfl, rfl⟩
  · rw [if_neg hodd] at h
    rw [Ppu.advance, if_neg (by simp only [Bool.and_eq_true, beq_iff_eq]; omega), if_neg (by omega),
      if_neg (by omega)]
    exact ⟨rfl, rfl⟩

/-- A tick before the last position of the frame moves to the next one. -/
theorem Ppu.tick_before_last {p : Ppu} (tag : Pending) (hgrid : p.OnGrid)
    (h : Claims.position p < p.lastPosition) : (Ppu.tick cart params (p, tag)).1.OnGrid ∧
      Claims.position (Ppu.tick cart params (p, tag)).1 = Claims.position p + 1 ∧
      (Ppu.tick cart params (p, tag)).1.odd = p.odd := by
  obtain ⟨hdot, hline, -⟩ := Ppu.tick_place cart params p tag
  rw [Ppu.tick_odd, Ppu.OnGrid, Claims.position, hdot, hline]
  exact Ppu.advance_before_last (p := p.nmiCountdown) hgrid h

/-- The tick at the last position begins the next frame. -/
theorem Ppu.tick_at_last {p : Ppu} (tag : Pending) (hgrid : p.OnGrid)
    (h : Claims.position p = p.lastPosition) : Claims.position (Ppu.tick cart params (p, tag)).1 = 0 ∧
      (Ppu.tick cart params (p, tag)).1.odd = !p.odd := by
  obtain ⟨hdot, hline, -⟩ := Ppu.tick_place cart params p tag
  rw [Ppu.tick_odd, Claims.position, hdot, hline]
  exact Ppu.advance_at_last (p := p.nmiCountdown) hgrid h

theorem Ppu.tick_renderingEnabled (s : Ppu × Pending) :
    (Ppu.tick cart params s).1.renderingEnabled = s.1.renderingEnabled := by
  rw [Ppu.renderingEnabled, (Ppu.tick_same cart params s).mask]
  rfl

/-- `n` ticks that reach no further than the last position. -/
theorem Ppu.ticks_within_frame {s : Ppu × Pending} (hgrid : s.1.OnGrid) (n : Nat)
    (hn : Claims.position s.1 + n ≤ s.1.lastPosition) : ((Ppu.tick cart params)^[n] s).1.OnGrid ∧
      Claims.position ((Ppu.tick cart params)^[n] s).1 = Claims.position s.1 + n ∧
      ((Ppu.tick cart params)^[n] s).1.odd = s.1.odd ∧
      ((Ppu.tick cart params)^[n] s).1.renderingEnabled = s.1.renderingEnabled := by
  induction n with
  | zero => exact ⟨hgrid, rfl, rfl, rfl⟩
  | succ n ih =>
    obtain ⟨hg, hp, ho, hr⟩ := ih (by omega)
    rw [Function.iterate_succ_apply']
    generalize (Ppu.tick cart params)^[n] s = u at *
    have hlast : u.1.lastPosition = s.1.lastPosition := by rw [Ppu.lastPosition, Ppu.lastPosition, ho, hr]
    obtain ⟨hg', hp', ho'⟩ := Ppu.tick_before_last cart params u.2 hg (by omega)
    exact ⟨hg', hp'.trans (by omega), ho'.trans ho, (Ppu.tick_renderingEnabled cart params u).trans hr⟩

/-- The ticks that are left of the frame lead to the top of the next one. -/
theorem Ppu.ticks_to_next_frame {s : Ppu × Pending} (hgrid : s.1.OnGrid) (n : Nat)
    (hn : Claims.position s.1 + n = s.1.lastPosition) :
    Claims.position ((Ppu.tick cart params)^[n + 1] s).1 = 0 ∧
      ((Ppu.tick cart params)^[n + 1] s).1.odd = !s.1.odd ∧
      ((Ppu.tick cart params)^[n + 1] s).1.renderingEnabled = s.1.renderingEnabled := by
  obtain ⟨hg, hp, ho, hr⟩ := Ppu.ticks_within_frame cart params hgrid n hn.le
  rw [Function.iterate_succ_apply']
  generalize (Ppu.tick cart params)^[n] s = u at *
  have hlast : u.1.lastPosition = s.1.lastPosition := by rw [Ppu.lastPosition, Ppu.lastPosition, ho, hr]
  obtain ⟨hp', ho'⟩ := Ppu.tick_at_last cart params u.2 hg (by omega)
  exact ⟨hp', ho'.trans (congrArg _ ho), (Ppu.tick_renderingEnabled cart params u).trans hr⟩

/-- The position says where on the grid the beam is. -/
theorem Ppu.place_of_position_eq {p q : Ppu} (hp : p.OnGrid) (hq : q.OnGrid)
    (h : Claims.position q = Claims.position p) : q.dot = p.dot ∧ q.scanline = p.scanline := by
  obtain ⟨hdot, -⟩ := hp
  obtain ⟨hdot', -⟩ := hq
  unfold Claims.position at h
  omega

theorem Ppu.onGrid_of_position_zero {p : Ppu} (h : Claims.position p = 0) : p.OnGrid := by
  unfold Claims.position at h
  constructor <;> omega

end FrameLength

/-- Settles O53: the way to the top of the next frame, and from there to the position again. -/
theorem frameLength : Obligations.FrameLength := by
  unfold Obligations.FrameLength
  intro cart params p tag hdot hline
  have hgrid : p.OnGrid := ⟨hdot, hline⟩
  refine ⟨fun hoff => ?_, fun hon htop => ?_⟩
  · have hlast : p.lastPosition = 89341 := if_neg (by simp [hoff])
    have hposition : Claims.position p ≤ 89341 := by unfold Claims.position; omega
    obtain ⟨htop, hodd, hoff'⟩ := Ppu.ticks_to_next_frame cart params (s := (p, tag)) hgrid
      (89341 - Claims.position p) (by show Claims.position p + _ = p.lastPosition; omega)
    have hsplit : 89342 = Claims.position p + (89341 - Claims.position p + 1) := by omega
    rw [hsplit, Function.iterate_add_apply]
    generalize (Ppu.tick cart params)^[89341 - Claims.position p + 1] (p, tag) = u at *
    have hlast' : u.1.lastPosition = 89341 := if_neg (by rw [hoff', hoff]; simp)
    obtain ⟨hgrid', hback, hodd', -⟩ := Ppu.ticks_within_frame cart params
      (Ppu.onGrid_of_position_zero htop) (Claims.position p) (by omega)
    obtain ⟨hd, hl⟩ := Ppu.place_of_position_eq hgrid hgrid' (by rw [hback, htop, Nat.zero_add])
    exact ⟨hd, hl, hodd'.trans hodd⟩
  · have hticks : (if p.odd = true then 89341 else 89342) = p.lastPosition + 1 := by
      unfold Ppu.lastPosition
      cases p.odd <;> simp [hon]
    rw [hticks]
    obtain ⟨htop', hodd, -⟩ := Ppu.ticks_to_next_frame cart params (s := (p, tag)) hgrid p.lastPosition
      (by rw [htop, Nat.zero_add])
    exact ⟨htop', hodd⟩

end Sys2Proof.Machine

/-! ## The scroll updates (51_ppu section 3): the statement O58 -/

namespace Sys2Proof.Machine

/-! ### The fields of `v` (51_ppu R372–R374) -/

section ScrollFields

variable {w start len : Nat} {x y mask : BitVec w} (v t : BitVec 15)

theorem extractLsb'_and_of_ones (hm : mask.extractLsb' start len = BitVec.allOnes len) :
    (x &&& mask).extractLsb' start len = x.extractLsb' start len := by
  rw [BitVec.extractLsb'_and, hm, BitVec.and_allOnes]

theorem extractLsb'_and_of_zeros (hm : mask.extractLsb' start len = 0) :
    (x &&& mask).extractLsb' start len = 0 := by
  rw [BitVec.extractLsb'_and, hm]
  exact BitVec.and_zero

theorem extractLsb'_xor_of_zeros (hm : mask.extractLsb' start len = 0) :
    (x ^^^ mask).extractLsb' start len = x.extractLsb' start len := by
  rw [BitVec.extractLsb'_xor, hm]
  exact BitVec.xor_zero

/-- A bit of an equal field. -/
theorem getLsbD_of_extractLsb'_eq (k : Nat) (h : x.extractLsb' start len = y.extractLsb' start len) (hk : k < len) :
    x.getLsbD (start + k) = y.getLsbD (start + k) := by
  have hbit := congrArg (BitVec.getLsbD · k) h
  simpa [BitVec.getLsbD_extractLsb', hk] using hbit

/-- A field within an equal field. -/
theorem extractLsb'_within (a m : Nat) (h : x.extractLsb' start len = y.extractLsb' start len) (ha : a + m ≤ len) :
    x.extractLsb' (start + a) m = y.extractLsb' (start + a) m := by
  refine BitVec.eq_of_getLsbD_eq fun i hi => ?_
  rw [BitVec.getLsbD_extractLsb', BitVec.getLsbD_extractLsb', Nat.add_assoc,
    getLsbD_of_extractLsb'_eq (a + i) h (by omega)]

/-- Coarse X before its wrap: the sum carries nowhere. -/
theorem add_one_fields (h : v.extractLsb' 0 5 ≠ 31) : (v + 1).extractLsb' 0 5 = v.extractLsb' 0 5 + 1 ∧
    (v + 1).extractLsb' 5 10 = v.extractLsb' 5 10 := by
  have hv := v.isLt
  rw [ne_eq, ← BitVec.toNat_inj] at h
  simp only [← BitVec.toNat_inj, BitVec.extractLsb'_toNat, BitVec.toNat_add, Nat.shiftRight_eq_div_pow] at h ⊢
  change ¬ (v.toNat / 1 % 32 = 31) at h
  change (v.toNat + 1) % 32768 / 1 % 32 = (v.toNat / 1 % 32 + 1) % 32 ∧
    (v.toNat + 1) % 32768 / 32 % 1024 = v.toNat / 32 % 1024
  omega

/-- Fine Y before its carry. -/
theorem add_fineY_fields (h : v.extractLsb' 12 3 ≠ 7) :
    (v + 0x1000).extractLsb' 12 3 = v.extractLsb' 12 3 + 1 ∧
    (v + 0x1000).extractLsb' 0 12 = v.extractLsb' 0 12 := by
  have hv := v.isLt
  rw [ne_eq, ← BitVec.toNat_inj] at h
  simp only [← BitVec.toNat_inj, BitVec.extractLsb'_toNat, BitVec.toNat_add, Nat.shiftRight_eq_div_pow] at h ⊢
  change ¬ (v.toNat / 4096 % 8 = 7) at h
  change (v.toNat + 4096) % 32768 / 4096 % 8 = (v.toNat / 4096 % 8 + 1) % 8 ∧
    (v.toNat + 4096) % 32768 / 1 % 4096 = v.toNat / 1 % 4096
  omega

/-- `increment_x()`: at 31 coarse X wraps and the horizontal nametable toggles. -/
theorem incrementX_fields : (incrementX v).extractLsb' 0 5 = v.extractLsb' 0 5 + 1 ∧
    (incrementX v).getLsbD 10 = (v.getLsbD 10 ^^ decide (v.extractLsb' 0 5 = 31)) ∧
    (incrementX v).extractLsb' 5 5 = v.extractLsb' 5 5 ∧
    (incrementX v).extractLsb' 11 4 = v.extractLsb' 11 4 := by
  by_cases h : v.extractLsb' 0 5 = 31
  · rw [incrementX, if_pos h, decide_eq_true h]
    refine ⟨?_, ?_, (extractLsb'_xor_of_zeros rfl).trans (extractLsb'_and_of_ones rfl),
      (extractLsb'_xor_of_zeros rfl).trans (extractLsb'_and_of_ones rfl)⟩
    · rw [h]
      exact (extractLsb'_xor_of_zeros rfl).trans (extractLsb'_and_of_zeros rfl)
    · rw [BitVec.getLsbD_xor, BitVec.getLsbD_and]
      exact congrArg (· ^^ true) (Bool.and_true _)
  · rw [incrementX, if_neg h, decide_eq_false h, Bool.xor_false]
    obtain ⟨hcoarse, hrest⟩ := add_one_fields v h
    exact ⟨hcoarse, getLsbD_of_extractLsb'_eq 5 hrest (by decide), extractLsb'_within 0 5 hrest (by decide),
      extractLsb'_within 6 4 hrest (by decide)⟩

/-- Coarse Y put into `v`. -/
theorem withCoarseY_fields (c : BitVec 5) : (withCoarseY v c).extractLsb' 5 5 = c ∧
    (withCoarseY v c).extractLsb' 0 5 = v.extractLsb' 0 5 ∧
    (withCoarseY v c).extractLsb' 10 5 = v.extractLsb' 10 5 := by
  have hy : ∀ c : BitVec 5, (c.setWidth 15 <<< 5).extractLsb' 5 5 = c ∧
      (c.setWidth 15 <<< 5).extractLsb' 0 5 = 0 ∧ (c.setWidth 15 <<< 5).extractLsb' 10 5 = 0 := by decide +kernel
  obtain ⟨hput, hlow, hhigh⟩ := hy c
  exact ⟨extractLsb'_masked_of_put rfl hput, extractLsb'_masked_of_kept rfl hlow,
    extractLsb'_masked_of_kept rfl hhigh⟩

/-- What `increment_y()` puts into coarse Y where fine Y carries. -/
theorem incrementY_carry (h : v.extractLsb' 12 3 = 7) : incrementY v =
    withCoarseY (if v.extractLsb' 5 5 = 29 then (v &&& 0x0FFF) ^^^ 0x0800 else v &&& 0x0FFF)
      (if v.extractLsb' 5 5 = 29 then 0 else v.extractLsb' 5 5 + 1) := by
  have hcoarse : (v &&& 0x0FFF).extractLsb' 5 5 = v.extractLsb' 5 5 := extractLsb'_and_of_ones rfl
  rw [incrementY, if_neg (not_not.2 h)]
  dsimp only
  rw [hcoarse]
  by_cases h29 : v.extractLsb' 5 5 = 29
  · rw [if_pos h29, if_pos h29, if_pos h29]
  · rw [if_neg h29, if_neg h29, if_neg h29]
    split
    · next h31 => rw [h31]; rfl
    · rfl

/-- `increment_y()`: fine Y carries into coarse Y, whose wrap at 29 toggles the vertical nametable. -/
theorem incrementY_fields : (incrementY v).extractLsb' 12 3 = v.extractLsb' 12 3 + 1 ∧
    (incrementY v).extractLsb' 5 5 = (if v.extractLsb' 12 3 ≠ 7 then v.extractLsb' 5 5
      else if v.extractLsb' 5 5 = 29 then 0 else v.extractLsb' 5 5 + 1) ∧
    (incrementY v).getLsbD 11 = (v.getLsbD 11 ^^ decide (v.extractLsb' 12 3 = 7 ∧ v.extractLsb' 5 5 = 29)) ∧
    (incrementY v).getLsbD 10 = v.getLsbD 10 ∧
    (incrementY v).extractLsb' 0 5 = v.extractLsb' 0 5 := by
  by_cases h : v.extractLsb' 12 3 = 7
  · rw [incrementY_carry v h, if_neg (not_not.2 h)]
    generalize hc : (if v.extractLsb' 5 5 = 29 then 0 else v.extractLsb' 5 5 + 1) = c
    generalize hu : (if v.extractLsb' 5 5 = 29 then (v &&& 0x0FFF) ^^^ 0x0800 else v &&& 0x0FFF) = u
    obtain ⟨hcoarse, hlow, hhigh⟩ := withCoarseY_fields u c
    have hfine : u.extractLsb' 12 3 = 0 := by
      rw [← hu]
      split
      · exact (extractLsb'_xor_of_zeros rfl).trans (extractLsb'_and_of_zeros rfl)
      · exact extractLsb'_and_of_zeros rfl
    have hx : u.extractLsb' 0 5 = v.extractLsb' 0 5 := by
      rw [← hu]
      split
      · exact (extractLsb'_xor_of_zeros rfl).trans (extractLsb'_and_of_ones rfl)
      · exact extractLsb'_and_of_ones rfl
    have hnt : u.getLsbD 10 = v.getLsbD 10 ∧ u.getLsbD 11 = (v.getLsbD 11 ^^ decide (v.extractLsb' 5 5 = 29)) := by
      rw [← hu]
      by_cases h29 : v.extractLsb' 5 5 = 29
      · rw [if_pos h29, decide_eq_true h29, BitVec.getLsbD_xor, BitVec.getLsbD_xor, BitVec.getLsbD_and,
          BitVec.getLsbD_and]
        exact ⟨(Bool.xor_false _).trans (Bool.and_true _), congrArg (· ^^ true) (Bool.and_true _)⟩
      · rw [if_neg h29, decide_eq_false h29, BitVec.getLsbD_and, BitVec.getLsbD_and]
        exact ⟨Bool.and_true _, (Bool.and_true _).trans (Bool.xor_false _).symm⟩
    refine ⟨?_, hcoarse, ?_, ?_, hlow.trans hx⟩
    · rw [h]
      exact (extractLsb'_within 2 3 hhigh (by decide)).trans hfine
    · rw [decide_eq_decide.2 (and_iff_right h), ← hnt.2]
      exact getLsbD_of_extractLsb'_eq 1 hhigh (by decide)
    · rw [← hnt.1]
      exact getLsbD_of_extractLsb'_eq 0 hhigh (by decide)
  · obtain ⟨hfine, hrest⟩ := add_fineY_fields v h
    rw [incrementY, if_pos h, if_pos h, decide_eq_false fun hand => h hand.1, Bool.xor_false]
    exact ⟨hfine, extractLsb'_within 5 5 hrest (by decide), getLsbD_of_extractLsb'_eq 11 hrest (by decide),
      getLsbD_of_extractLsb'_eq 10 hrest (by decide), extractLsb'_within 0 5 hrest (by decide)⟩

theorem copyX_fields : (copyX v t).extractLsb' 0 5 = t.extractLsb' 0 5 ∧ (copyX v t).getLsbD 10 = t.getLsbD 10 ∧
    (copyX v t).extractLsb' 5 5 = v.extractLsb' 5 5 ∧ (copyX v t).extractLsb' 11 4 = v.extractLsb' 11 4 := by
  have hbit : (copyX v t).extractLsb' 10 1 = t.extractLsb' 10 1 :=
    extractLsb'_masked_of_put rfl (extractLsb'_and_of_ones rfl)
  exact ⟨extractLsb'_masked_of_put rfl (extractLsb'_and_of_ones rfl), getLsbD_of_extractLsb'_eq 0 hbit (by decide),
    extractLsb'_masked_of_kept rfl (extractLsb'_and_of_zeros rfl),
    extractLsb'_masked_of_kept rfl (extractLsb'_and_of_zeros rfl)⟩

theorem copyY_fields : (copyY v t).extractLsb' 0 5 = v.extractLsb' 0 5 ∧ (copyY v t).getLsbD 10 = v.getLsbD 10 ∧
    (copyY v t).extractLsb' 5 5 = t.extractLsb' 5 5 ∧ (copyY v t).extractLsb' 11 4 = t.extractLsb' 11 4 := by
  have hbit : (copyY v t).extractLsb' 10 1 = v.extractLsb' 10 1 :=
    extractLsb'_masked_of_kept rfl (extractLsb'_and_of_zeros rfl)
  exact ⟨extractLsb'_masked_of_kept rfl (extractLsb'_and_of_zeros rfl), getLsbD_of_extractLsb'_eq 0 hbit (by decide),
    extractLsb'_masked_of_put rfl (extractLsb'_and_of_ones rfl),
    extractLsb'_masked_of_put rfl (extractLsb'_and_of_ones rfl)⟩

end ScrollFields

/-- Settles O58: the updates field by field, and `v` after a tick. -/
theorem scrollFields : Obligations.ScrollFields := by
  unfold Obligations.ScrollFields
  refine ⟨fun v t => ⟨incrementX_fields v, incrementY_fields v, copyX_fields v t, copyY_fields v t⟩, ?_⟩
  intro cart params p q tag hq
  have hsame := Ppu.tick_same cart params (p, tag)
  rw [← hq] at hsame
  rw [Ppu.tick_v hq rfl, Ppu.renderingEnabled_eq]
  exact ⟨hsame.t, hsame.fineX, hsame.w, fun h => if_pos h, fun h => if_neg (Bool.eq_false_iff.1 h)⟩

end Sys2Proof.Machine

/-! ## The background pipeline (51_ppu section 2): the statement O57 -/

namespace Sys2Proof.Machine

section Pixels

/-! ### Eight pixels in a word (51_ppu R371, R376) -/

/-- The pixel shifted in from the right, and those before it, one place to the left. -/
theorem pushPixel_pixels (d : BitVec 32) (c : BitVec 4) :
    (d <<< 4 ||| c.setWidth 32).extractLsb' 0 4 = c ∧
    ∀ k < 7, (d <<< 4 ||| c.setWidth 32).extractLsb' (4 * (k + 1)) 4 = d.extractLsb' (4 * k) 4 := by
  refine ⟨BitVec.eq_of_getLsbD_eq fun j hj => ?_, fun k hk => BitVec.eq_of_getLsbD_eq fun j hj => ?_⟩
  · simp [hj, show j < 32 by omega]
  · have hplace : 4 * (k + 1) + j - 4 = 4 * k + j := by omega
    simp [hj, hplace, show 4 * (k + 1) + j < 32 by omega, show ¬ (4 * (k + 1) + j < 4) by omega,
      BitVec.getLsbD_eq_getElem (show 4 * k + j < 32 by omega),
      BitVec.getLsbD_of_ge c _ (show 4 ≤ 4 * (k + 1) + j by omega)]

/-- Pixels shifted in one by one. -/
theorem pushPixels_pixel (f : Nat → BitVec 4) (n k : Nat) (hk : k < n) (hn : n ≤ 8) :
    ((List.range n).foldl (fun (d : BitVec 32) i => (d <<< 4) ||| (f i).setWidth 32) 0).extractLsb' (4 * k) 4 =
      f (n - 1 - k) := by
  induction n generalizing k with
  | zero => omega
  | succ n ih =>
    rw [List.range_succ, List.foldl_append]
    cases k with
    | zero => exact (pushPixel_pixels _ _).1
    | succ k =>
      rw [show n + 1 - 1 - (k + 1) = n - 1 - k by omega, ← ih k (by omega) (by omega)]
      exact (pushPixel_pixels _ _).2 k (by omega)

/-- Pixel `i` from the left stands `28 - 4 i` bits from the right. -/
theorem packPixels_pixel (f : Nat → BitVec 4) (i : Fin 8) :
    (packPixels f).extractLsb' (28 - 4 * i.val) 4 = f i.val := by
  have hpixel := pushPixels_pixel f 8 (7 - i.val) (by omega) le_rfl
  rwa [show 4 * (7 - i.val) = 28 - 4 * i.val by omega, show 8 - 1 - (7 - i.val) = i.val by omega] at hpixel

/-- The two pattern bits as a number. -/
theorem planeBits_eq (lo hi : Byte) (k : Nat) :
    planeBits lo hi k = BitVec.ofNat 4 (bitNat (lo.getLsbD k) + 2 * bitNat (hi.getLsbD k)) := by
  rw [planeBits]
  cases lo.getLsbD k <;> cases hi.getLsbD k <;> rfl

end Pixels

section Fold

variable (p : Ppu)

/-- A fold leaves the high half, and puts its pixels over the low half. -/
theorem Ppu.foldTile_pixels (i : Fin 8) :
    p.foldTile.tileData.extractLsb' (28 - 4 * i.val) 4 = (p.tileData.extractLsb' (28 - 4 * i.val) 4 ||| p.atBits |||
        BitVec.ofNat 4 (bitNat (p.ptLo.getLsbD (7 - i.val)) + 2 * bitNat (p.ptHi.getLsbD (7 - i.val)))) ∧
    p.foldTile.tileData.extractLsb' 32 32 = p.tileData.extractLsb' 32 32 := by
  have hlow (d : BitVec 32) : (d.setWidth 64).extractLsb' (28 - 4 * i.val) 4 = d.extractLsb' (28 - 4 * i.val) 4 := by
    refine BitVec.eq_of_getLsbD_eq fun j hj => ?_
    simp [hj, show 28 - 4 * i.val + j < 64 by omega]
  have hhigh (d : BitVec 32) : (d.setWidth 64).extractLsb' 32 32 = 0 := by
    refine BitVec.eq_of_getLsbD_eq fun j hj => ?_
    simp
  rw [Ppu.foldTile]
  dsimp only
  rw [BitVec.extractLsb'_or, BitVec.extractLsb'_or, hlow, hhigh, packPixels_pixel, planeBits_eq, BitVec.or_assoc]
  exact ⟨rfl, BitVec.or_zero⟩

end Fold

section Addresses

variable (p : Ppu)

theorem Ppu.ntAddr_eq : p.ntAddr = BitVec.ofNat 14 (0x2000 + p.v.toNat % 0x1000) := by
  have hoffset : (p.v &&& 0x0FFF).toNat = p.v.toNat % 0x1000 :=
    (BitVec.toNat_and ..).trans (Nat.and_two_pow_sub_one_eq_mod _ 12)
  have hor : 0x2000 + p.v.toNat % 0x1000 = 0x2000 ||| p.v.toNat % 0x1000 :=
    Nat.two_pow_add_eq_or_of_lt (i := 13) (by omega) 1
  rw [hor, BitVec.ofNat_or, ← hoffset]
  rfl

theorem Ppu.atAddr_eq : p.atAddr = BitVec.ofNat 14 (Claims.attributeAddr p.v.toNat) := by
  rw [Claims.attributeAddr, BitVec.ofNat_or, BitVec.ofNat_or, BitVec.ofNat_or]
  rfl

theorem Ppu.atShift_eq : p.atShift = 4 * bitNat (p.v.getLsbD 6) + 2 * bitNat (p.v.getLsbD 1) := by
  have hrow : (p.v >>> 4) &&& 0x04 = if p.v.getLsbD 6 then 0x04 else 0 := by
    have h := BitVec.and_twoPow (p.v >>> 4) 2
    rwa [BitVec.getLsbD_ushiftRight] at h
  have hcolumn : p.v &&& 0x02 = if p.v.getLsbD 1 then 0x02 else 0 := BitVec.and_twoPow p.v 1
  rw [Ppu.atShift, hrow, hcolumn]
  cases p.v.getLsbD 6 <;> cases p.v.getLsbD 1 <;> rfl

/-- The pattern table that a bit of `$2000` selects. -/
theorem patternTable_eq (v : Byte) (k : Nat) (hk : k < 8) :
    0x1000 * bitNat (v.getLsbD k) = if v &&& BitVec.twoPow 8 k = 0 then 0 else 0x1000 := by
  rw [← ite_getLsbD_eq_mask v k hk]
  cases v.getLsbD k <;> rfl

theorem Ppu.bgPatternAddr_eq : p.bgPatternAddr = BitVec.ofNat 14 (Claims.tileAddr p) := by
  have hrow : (p.v.extractLsb' 12 3).toNat = p.v.toNat / 0x1000 := by
    have hv := p.v.isLt
    rw [BitVec.extractLsb'_toNat, Nat.shiftRight_eq_div_pow]
    omega
  have htable : 0x1000 * bitNat (p.ctrl.getLsbD 4) = if p.ctrl &&& 0x10 = 0 then 0 else 0x1000 :=
    patternTable_eq p.ctrl 4 (by decide)
  rw [Ppu.bgPatternAddr, hrow, htable, Claims.tileAddr]

theorem attributeBits_eq (b : Byte) (k : Nat) :
    ((b >>> k) &&& 0x03).setWidth 4 <<< 2 = BitVec.ofNat 4 (4 * (b.toNat / 2 ^ k % 4)) := by
  have hbits : ∀ c : Byte, (c &&& 0x03).setWidth 4 <<< 2 = BitVec.ofNat 4 (4 * (c.toNat % 4)) := by decide +kernel
  rw [hbits, BitVec.toNat_ushiftRight, Nat.shiftRight_eq_div_pow]

end Addresses

/-- Settles O57: a fold is eight pixels ORed over the low half, and the tick's fields are the ones of its fetch. -/
theorem backgroundFold : Obligations.BackgroundFold := by
  unfold Obligations.BackgroundFold
  rintro cart params p q r tag i hq rfl
  obtain ⟨hpixel, hhigh⟩ := p.foldTile_pixels i
  refine ⟨hpixel, hhigh, fun h => ?_, fun h => ?_⟩
  all_goals
    rw [← Ppu.renderingEnabled_eq, Bool.and_assoc] at h
    rw [Ppu.tick_tileData hq rfl, Ppu.tick_ntByte hq, Ppu.tick_atBits hq, Ppu.tick_ptLo hq, Ppu.tick_ptHi hq]
    rw [show (p.renderingEnabled && (q.renderLine && q.fetchDot)) = _ from h]
  · rw [← Ppu.ntAddr_eq, ← Ppu.atAddr_eq, ← Ppu.atShift_eq, BitVec.ofNat_add, ← Ppu.bgPatternAddr_eq,
      ← attributeBits_eq]
    exact ⟨if_pos rfl, if_congr beq_iff_eq rfl rfl, if_congr beq_iff_eq rfl rfl, if_congr beq_iff_eq rfl rfl,
      if_congr beq_iff_eq rfl rfl⟩
  · exact ⟨rfl, rfl, rfl, rfl, rfl⟩

end Sys2Proof.Machine

/-! ## Sprite evaluation (51_ppu section 4): the statement O55 -/

namespace Sys2Proof.Machine

section Slots

/-! ### The slots of a line (51_ppu R375) -/

/-- Filling from slot `k` up leaves the slots below. -/
theorem fillSlots_below (new : List SpriteSlot) : ∀ (slots : Vector SpriteSlot 8) (k j : Nat) (hj : j < 8), j < k →
    (fillSlots slots k new)[j] = slots[j] := by
  induction new with
  | nil => exact fun _ _ _ _ _ => rfl
  | cons s rest ih =>
    intro slots k j hj hk
    rw [fillSlots, ih _ _ _ hj (by omega), Vector.getElem_setIfInBounds_ne hj (by omega)]

/-- The `j`-th new slot stands `j` places above the first. -/
theorem fillSlots_new (new : List SpriteSlot) : ∀ (slots : Vector SpriteSlot 8) (k j : Nat) (s : SpriteSlot)
    (hj : k + j < 8), new[j]? = some s → (fillSlots slots k new)[k + j] = s := by
  induction new with
  | nil => exact fun _ _ _ _ _ h => nomatch h
  | cons t rest ih =>
    intro slots k j s hj h
    cases j with
    | zero =>
      obtain rfl : t = s := by simpa using h
      rw [fillSlots, fillSlots_below _ _ _ _ hj (by omega)]
      exact Vector.getElem_setIfInBounds_self hj
    | succ j =>
      have hrest := ih (slots.setIfInBounds k t) (k + 1) j s (by omega) (by simpa using h)
      simpa only [fillSlots, Nat.add_assoc, Nat.add_comm 1 j] using hrest

end Slots

section Sprites

variable (cart : Option Cartridge) (params : Params) (p : Ppu) (n : Nat)

theorem Ppu.spriteOnLine_eq : p.spriteOnLine n = Claims.onLine p n := by
  have hheight : p.spriteHeight = if p.ctrl &&& 0x20 = 0 then 8 else 16 :=
    ite_getLsbD_eq_mask p.ctrl 5 (by decide) 16 8
  rw [Ppu.spriteOnLine, hheight, Claims.onLine]
  have hy : p.spriteByte n 0 = p.oam.read (4 * n) := rfl
  rw [hy]
  generalize (p.oam.read (4 * n)).toNat = y
  generalize (if p.ctrl &&& 0x20 = 0 then 8 else 16) = h
  by_cases hy : y ≤ p.scanline
  · have hiff : p.scanline - y < h ↔ p.scanline < y + h := by omega
    rw [decide_eq_true hy, decide_eq_decide.2 hiff]
  · rw [decide_eq_false hy]
    rfl

theorem Ppu.spritesOnLine_eq : p.spritesOnLine = Claims.lineSprites p :=
  congrArg (List.filter · (List.range 64)) (funext p.spriteOnLine_eq)

/-- A row of a sprite on the line is one of at most 16. -/
theorem Ppu.row_lt_of_onLine (h : Claims.onLine p n = true) : p.scanline - (p.oam.read (4 * n)).toNat < 16 := by
  simp only [Claims.onLine, Bool.and_eq_true, decide_eq_true_eq] at h
  split at h <;> omega

/-- A row of a 16-row sprite lies in the even or the odd tile of its pair. -/
theorem tallRow_eq (base tile r : Nat) (hr : r < 16) :
    base + 16 * (if r > 7 then tile - tile % 2 + 1 else tile - tile % 2) + (if r > 7 then r - 8 else r) =
      base + 16 * (tile / 2 * 2 + r / 8) + r % 8 := by
  split <;> omega

/-- The pattern address of a row (51_ppu R376). -/
theorem Ppu.spritePatternAddr_eq (row : Nat) (hrow : row < 16) :
    p.spritePatternAddr n row = BitVec.ofNat 14 (Claims.spriteAddr p n row) := by
  have hflip (k : Nat) : (if (p.spriteByte n 2).getLsbD 7 then k - row else row) =
      if p.oam.read (4 * n + 2) &&& 0x80 ≠ 0 then k - row else row := by
    rw [ite_not]
    exact ite_getLsbD_eq_mask (p.oam.read (4 * n + 2)) 7 (by decide) (k - row) row
  have htable : 0x1000 * bitNat (p.ctrl.getLsbD 3) = if p.ctrl &&& 0x08 = 0 then 0 else 0x1000 :=
    patternTable_eq p.ctrl 3 (by decide)
  rw [Ppu.spritePatternAddr, Claims.spriteAddr]
  dsimp only
  rw [hflip, hflip, htable]
  refine (ite_getLsbD_eq_mask p.ctrl 5 (by decide) _ _).trans ?_
  by_cases h : p.ctrl &&& 0x20 = 0
  · rw [if_pos h]
    exact if_pos h
  · rw [if_neg h]
    refine (if_neg h).trans (congrArg _ ?_)
    have hrow' : (if p.oam.read (4 * n + 2) &&& 0x80 ≠ 0 then 15 - row else row) < 16 := by split <;> omega
    exact tallRow_eq _ _ _ hrow'

/-- A sprite's pixel: its palette number and its two plane bits. -/
theorem spritePixel_eq (attr lo hi : Byte) (k : Nat) : (attr &&& 0x03).setWidth 4 <<< 2 ||| planeBits lo hi k =
    BitVec.ofNat 4 (4 * (attr.toNat % 4) + bitNat (lo.getLsbD k) + 2 * bitNat (hi.getLsbD k)) := by
  have hbits : ∀ (attr : Byte) (a b : Bool),
      (attr &&& 0x03).setWidth 4 <<< 2 ||| BitVec.ofNat 4 (bitNat a + 2 * bitNat b) =
      BitVec.ofNat 4 (4 * (attr.toNat % 4) + bitNat a + 2 * bitNat b) := by decide +kernel
  rw [planeBits_eq, hbits]

theorem Ppu.spritePattern_pixel (row : Nat) (hrow : row < 16) (i : Fin 8) :
    (p.spritePattern cart params n row).extractLsb' (28 - 4 * i.val) 4 =
      Claims.spriteBits cart params p n row i.val := by
  rw [Ppu.spritePattern, packPixels_pixel, spritePixel_eq, Claims.spriteBits, p.spritePatternAddr_eq n row hrow,
    BitVec.ofNat_add (Claims.spriteAddr p n row) 8]
  have hk : (if (p.spriteByte n 2).getLsbD 6 then i.val else 7 - i.val) =
      if p.oam.read (4 * n + 2) &&& 0x40 = 0 then 7 - i.val else i.val :=
    ite_getLsbD_eq_mask (p.oam.read (4 * n + 2)) 6 (by decide) i.val (7 - i.val)
  rw [hk]
  rfl

end Sprites

section Evaluation

variable {cart : Option Cartridge} {params : Params} {p q : Ppu} {tag : Pending}

theorem Ppu.evaluateSprites_slot (k : Fin 8) (n : Nat) (h : (Claims.lineSprites p)[k.val]? = some n) :
    (p.evaluateSprites cart params).slots[k] = p.spriteSlot cart params n := by
  have hnew : ((p.spritesOnLine.take 8).map (p.spriteSlot cart params))[k.val]? = some (p.spriteSlot cart params n) := by
    rw [List.getElem?_map, List.getElem?_take_of_lt k.isLt, Ppu.spritesOnLine_eq, h]
    rfl
  have hslot := fillSlots_new _ p.slots 0 k.val _ (by omega) hnew
  simp only [Nat.zero_add] at hslot
  exact hslot

/-- A tick that ends past dot 0 stays on its line. -/
theorem Ppu.tick_scanline (hq : q = (Ppu.tick cart params (p, tag)).1) (hdot : q.dot ≠ 0) :
    q.scanline = p.scanline := by
  obtain ⟨hd, hl, -⟩ := Ppu.tick_place cart params p tag
  rw [← hq] at hd hl
  have hcases := Ppu.advance_cases p.nmiCountdown
  have hsame : p.nmiCountdown.scanline = p.scanline := rfl
  omega

end Evaluation

/-- Settles O55: the slots are filled in order from the sprites on the line, and the tick's fields are those of the
evaluation at its place. -/
theorem spriteEvaluation : Obligations.SpriteEvaluation := by
  unfold Obligations.SpriteEvaluation
  rintro cart params p e q tag rfl hq
  refine ⟨?count, ?overflow, fun k n h => ?slot, fun hon hdot hline => ?evaluates, fun hon hdot hline => ?empties,
    fun h => ?leaves⟩
  case count => exact congrArg (fun l : List Nat => min l.length 8) p.spritesOnLine_eq
  case overflow =>
    exact congrArg (fun l : List Nat => p.spriteOverflow || decide (8 < l.length)) p.spritesOnLine_eq
  case slot =>
    have hon : Claims.onLine p n = true := (List.mem_filter.1 (List.mem_of_getElem? h)).2
    rw [Ppu.evaluateSprites_slot k n h]
    exact ⟨rfl, rfl, rfl, p.spritePattern_pixel cart params n _ (p.row_lt_of_onLine n hon)⟩
  case evaluates =>
    have hscan := Ppu.tick_scanline hq (by omega)
    have hvisible : q.visibleLine = true := Ppu.visibleLine_iff.2 hline
    have hclear : q.atClear = false := by simp [Ppu.atClear, hdot]
    rw [Ppu.tick_slots hq rfl, Ppu.tick_sprCount hq rfl, Ppu.tick_spriteOverflow hq rfl, Ppu.renderingEnabled_eq, hon,
      hdot, hvisible, hclear, hscan]
    exact ⟨rfl, rfl, rfl⟩
  case empties =>
    have hvisible : q.visibleLine = false := Bool.eq_false_iff.2 fun h => by have := Ppu.visibleLine_iff.1 h; omega
    have hclear : q.atClear = false := by simp [Ppu.atClear, hdot]
    rw [Ppu.tick_slots hq rfl, Ppu.tick_sprCount hq rfl, Ppu.tick_spriteOverflow hq rfl, Ppu.renderingEnabled_eq, hon,
      hdot, hvisible, hclear]
    exact ⟨rfl, rfl, rfl⟩
  case leaves =>
    have hoff : (p.renderingEnabled && q.dot == 257) = false := by
      rw [Ppu.renderingEnabled_eq]
      exact Bool.eq_false_iff.2 (by simpa using h)
    rw [Ppu.tick_slots hq rfl, Ppu.tick_sprCount hq rfl, Ppu.tick_spriteOverflow hq rfl, hoff]
    refine ⟨rfl, rfl, fun hplace => ?_⟩
    rw [Bool.eq_false_iff.2 (mt Ppu.atClear_iff.1 hplace)]
    rfl

end Sys2Proof.Machine

/-! ## Pixel composition (51_ppu section 5): the statement O56 -/

namespace Sys2Proof.Machine

section Layers

variable (p : Ppu) (px : Nat)

/-- A field shifted to the bottom. -/
theorem setWidth_ushiftRight_eq_extractLsb' {w : Nat} (x : BitVec w) (start len : Nat) :
    (x >>> start).setWidth len = x.extractLsb' start len := by
  refine BitVec.eq_of_getLsbD_eq fun j hj => ?_
  simp [hj]

/-- A bit of the mask, as the statements test it. -/
theorem getLsbD_iff_mask (v : Byte) (k : Nat) (hk : k < 8) : v.getLsbD k = true ↔ v &&& BitVec.twoPow 8 k ≠ 0 := by
  rw [getLsbD_eq_mask v k hk, bne_iff_ne]

/-- A layer is shown where its bit of the mask is set, and in the left columns only with a second bit. -/
theorem layer_eq {α : Type} (mask : Byte) (on left : Nat) (hon : on < 8) (hleft : left < 8) (hidden shown : α) :
    (if !mask.getLsbD on then hidden else if px < 8 && !mask.getLsbD left then hidden else shown) =
    if mask &&& BitVec.twoPow 8 on ≠ 0 ∧ (8 ≤ px ∨ mask &&& BitVec.twoPow 8 left ≠ 0) then shown
    else hidden := by
  simp only [← getLsbD_iff_mask mask on hon, ← getLsbD_iff_mask mask left hleft, ← Nat.not_lt]
  cases mask.getLsbD on with
  | false => simp
  | true =>
    cases mask.getLsbD left with
    | false => by_cases hpx : px < 8 <;> simp [hpx]
    | true => simp

theorem Ppu.backgroundPixel_eq : p.backgroundPixel px =
    if p.mask &&& 0x08 ≠ 0 ∧ (8 ≤ px ∨ p.mask &&& 0x02 ≠ 0) then p.tileData.extractLsb' (60 - 4 * p.fineX.toNat) 4
    else 0 := by
  have hshift : 32 + 4 * (7 - p.fineX.toNat) = 60 - 4 * p.fineX.toNat := by omega
  rw [Ppu.backgroundPixel, setWidth_ushiftRight_eq_extractLsb', hshift]
  exact layer_eq px p.mask 3 1 (by decide) (by decide) _ _

/-- The background layer is hidden at this column (51_ppu R380). -/
theorem Ppu.backgroundPixel_hidden (h : p.mask &&& 0x08 = 0 ∨ px < 8 ∧ p.mask &&& 0x02 = 0) :
    p.backgroundPixel px = 0 := by
  rw [Ppu.backgroundPixel_eq]
  refine if_neg fun ⟨hon, hleft⟩ => ?_
  rcases h with h | ⟨hpx, h⟩
  · exact hon h
  · exact hleft.elim (fun hpx' => by omega) (fun hleft => hleft h)

theorem SpriteSlot.pixel_eq (s : SpriteSlot) : s.pixel px =
    if s.x.toNat ≤ px ∧ px ≤ s.x.toNat + 7 then s.pattern.extractLsb' (28 - 4 * (px - s.x.toNat)) 4 else 0 := by
  have hreach : (s.x.toNat ≤ px ∧ px - s.x.toNat ≤ 7) ↔ (s.x.toNat ≤ px ∧ px ≤ s.x.toNat + 7) := by omega
  have hshift : 4 * (7 - (px - s.x.toNat)) = 28 - 4 * (px - s.x.toNat) := by omega
  rw [SpriteSlot.pixel, setWidth_ushiftRight_eq_extractLsb', hshift]
  exact if_congr hreach rfl rfl

theorem opaquePixel_iff (c : BitVec 4) : opaquePixel c = true ↔ c.toNat % 4 ≠ 0 := by
  rw [opaquePixel, bne_iff_ne]

theorem opaquePixel_eq_false_iff (c : BitVec 4) : opaquePixel c = false ↔ c.toNat % 4 = 0 := by
  rw [opaquePixel, bne_eq_false_iff_eq]

/-- The sprite layer is shown at this column (51_ppu R381). -/
theorem Ppu.spritePixel_eq : p.spritePixel px =
    if p.mask &&& 0x10 ≠ 0 ∧ (8 ≤ px ∨ p.mask &&& 0x04 ≠ 0) then
      (p.slots.toList.take p.sprCount).find? (fun s => opaquePixel (s.pixel px))
    else none := by
  exact layer_eq px p.mask 4 2 (by decide) (by decide) _ _

/-- The sprite pixel is the first opaque one. -/
theorem Ppu.spritePixel_some {s : SpriteSlot} (h : p.spritePixel px = some s) :
    p.mask &&& 0x10 ≠ 0 ∧ (8 ≤ px ∨ p.mask &&& 0x04 ≠ 0) ∧ (s.pixel px).toNat % 4 ≠ 0 ∧
      ∃ k : Fin 8, k.val < p.sprCount ∧ p.slots[k] = s ∧
        ∀ j : Fin 8, j.val < k.val → (p.slots[j].pixel px).toNat % 4 = 0 := by
  rw [Ppu.spritePixel_eq, ite_eq_iff] at h
  rcases h with ⟨⟨hon, hleft⟩, h⟩ | ⟨-, h⟩
  · obtain ⟨hopaque, i, hi, hs, hfirst⟩ := List.find?_eq_some_iff_getElem.1 h
    rw [List.length_take, Vector.length_toList] at hi
    rw [List.getElem_take, Vector.getElem_toList] at hs
    refine ⟨hon, hleft, (opaquePixel_iff _).1 hopaque, ⟨i, by omega⟩, by show i < _; omega, hs, fun j hj => ?_⟩
    have hclear := hfirst j.val hj
    rw [List.getElem_take, Vector.getElem_toList, Bool.not_eq_true', opaquePixel_eq_false_iff] at hclear
    exact hclear
  · exact nomatch h

theorem Ppu.spritePixel_none (h : p.spritePixel px = none) :
    p.mask &&& 0x10 = 0 ∨ (px < 8 ∧ p.mask &&& 0x04 = 0) ∨
      ∀ k : Fin 8, k.val < p.sprCount → (p.slots[k].pixel px).toNat % 4 = 0 := by
  by_cases hshown : p.mask &&& 0x10 ≠ 0 ∧ (8 ≤ px ∨ p.mask &&& 0x04 ≠ 0)
  · rw [Ppu.spritePixel_eq, if_pos hshown, List.find?_eq_none] at h
    refine .inr (.inr fun k hk => ?_)
    have hmem : p.slots[k] ∈ p.slots.toList.take p.sprCount :=
      List.mem_take_iff_getElem.2 ⟨k.val, by rw [Vector.length_toList]; omega, Vector.getElem_toList _⟩
    rw [← opaquePixel_eq_false_iff]
    exact Bool.eq_false_iff.2 (h _ hmem)
  · by_cases hon : p.mask &&& 0x10 = 0
    · exact .inl hon
    · refine .inr (.inl ?_)
      have hleft : ¬ (8 ≤ px ∨ p.mask &&& 0x04 ≠ 0) := fun hl => hshown ⟨hon, hl⟩
      rw [not_or, not_not] at hleft
      exact ⟨by omega, hleft.2⟩

end Layers

section Colour

variable (p : Ppu) (px : Nat)

/-- A background colour is its pixel. -/
theorem toNat_setWidth_pixel (c : BitVec 4) : (c.setWidth 5).toNat = c.toNat :=
  BitVec.toNat_setWidth_of_le (by decide)

/-- A sprite colour is its pixel in the upper half of the palette. -/
theorem toNat_spriteColour (c : BitVec 4) : (c.setWidth 5 ||| 0x10).toNat = 16 + c.toNat := by
  have hall : ∀ c : BitVec 4, (c.setWidth 5 ||| 0x10).toNat = 16 + c.toNat := by decide
  exact hall c

theorem Ppu.pixelColor_none (h : p.spritePixel px = none) : (p.pixelColor px).toNat =
    if (p.backgroundPixel px).toNat % 4 = 0 then 0 else (p.backgroundPixel px).toNat := by
  rw [Ppu.pixelColor, h]
  cases hbg : opaquePixel (p.backgroundPixel px) with
  | false => rw [if_pos ((opaquePixel_eq_false_iff _).1 hbg)]; rfl
  | true => rw [if_neg ((opaquePixel_iff _).1 hbg)]; exact toNat_setWidth_pixel _

theorem Ppu.pixelColor_some {s : SpriteSlot} (h : p.spritePixel px = some s) : (p.pixelColor px).toNat =
    if (p.backgroundPixel px).toNat % 4 = 0 ∨ s.priority = false then 16 + (s.pixel px).toNat
    else (p.backgroundPixel px).toNat := by
  rw [Ppu.pixelColor, h]
  cases hbg : opaquePixel (p.backgroundPixel px) with
  | false => rw [if_pos (.inl ((opaquePixel_eq_false_iff _).1 hbg))]; exact toNat_spriteColour _
  | true =>
    have hbg' := (opaquePixel_iff _).1 hbg
    show (if s.priority = true then (p.backgroundPixel px).setWidth 5 else (s.pixel px).setWidth 5 ||| 0x10).toNat = _
    cases hpriority : s.priority with
    | false => exact (toNat_spriteColour _).trans (if_pos (.inr rfl)).symm
    | true => exact (toNat_setWidth_pixel _).trans (if_neg (by simp [hbg'])).symm

theorem Ppu.spriteZeroHits_iff : p.spriteZeroHits px = true ↔ (p.backgroundPixel px).toNat % 4 ≠ 0 ∧ px < 255 ∧
    ∃ s, p.spritePixel px = some s ∧ s.index = 0 := by
  rw [← opaquePixel_iff, Ppu.spriteZeroHits]
  cases opaquePixel (p.backgroundPixel px) with
  | false => simp
  | true =>
    cases p.spritePixel px with
    | none => simp
    | some s => simp [and_comm]

theorem Ppu.pixelByte_eq : p.pixelByte px =
    p.palette.read (Claims.paletteEntry (BitVec.ofNat 14 (0x3F00 + (p.pixelColor px).toNat))) &&& 0x3F := by
  have haddr : ∀ c : BitVec 5, 0x3F00 ||| c.setWidth 14 = BitVec.ofNat 14 (0x3F00 + c.toNat) := by decide
  rw [Ppu.pixelByte, haddr, palIndex_eq]

end Colour

/-- Settles O56: layer by layer, and the tick's two fields at the place where it ends. -/
theorem pixelComposition : Obligations.PixelComposition := by
  unfold Obligations.PixelComposition
  intro cart params p q r tag px hq hr
  refine ⟨p.backgroundPixel_hidden px, fun hon hleft => (p.backgroundPixel_eq px).trans (if_pos ⟨hon, hleft⟩),
    fun s => s.pixel_eq px, fun s => p.spritePixel_some px, p.spritePixel_none px, p.pixelColor_none px,
    fun s => p.pixelColor_some px, p.spriteZeroHits_iff px, p.pixelByte_eq px,
    fun hon hline hlow hhigh => ?draws, fun h => ?leaves⟩
  case draws =>
    have hdraws : (p.renderingEnabled && (q.visibleLine && q.visibleDot)) = true := by
      rw [Ppu.renderingEnabled_eq, hon, Ppu.visibleLine_iff.2 hline, Ppu.visibleDot_iff.2 ⟨hlow, hhigh⟩]
      rfl
    have hclear : q.atClear = false := Bool.eq_false_iff.2 fun h => by have := Ppu.atClear_iff.1 h; omega
    rw [Ppu.tick_sprite0Hit hq hr, Ppu.tick_frame hq hr, hdraws, hclear]
    refine ⟨rfl, fun x y hx => ?_⟩
    have hkey : 256 * y + x = 256 * q.scanline + (q.dot - 1) ↔ x = q.dot - 1 ∧ y = q.scanline := by omega
    rw [if_pos rfl, Mem.read_write]
    exact if_congr hkey rfl rfl
  case leaves =>
    have hdraws : (p.renderingEnabled && (q.visibleLine && q.visibleDot)) = false := by
      refine Bool.eq_false_iff.2 fun hd => h ?_
      simpa only [Ppu.renderingEnabled_eq, Bool.and_eq_true, Ppu.visibleLine_iff, Ppu.visibleDot_iff] using hd
    rw [Ppu.tick_sprite0Hit hq hr, Ppu.tick_frame hq hr, hdraws]
    refine ⟨rfl, fun hplace => ?_⟩
    rw [Bool.eq_false_iff.2 (mt Ppu.atClear_iff.1 hplace)]
    rfl

end Sys2Proof.Machine
